-- ==== Sys2Proof/Word.lean ====
section
/-! DEFINITION. The word types of the block: pixel bytes (20_memory.md R30), registers (10_state.md R11) and
the 98-bit command word (30_encoding.md R50). -/

namespace Sys2Proof

/-- A `u8`: one byte of SRC or DST, or one channel of a pixel (00_scope.md R8). -/
abbrev Byte := BitVec 8

/-- A whole 32-bit register (20_memory.md R36: registers move as whole 32-bit values). -/
abbrev Word := BitVec 32

/-- The command word `len ++ height ++ width ++ op` (30_encoding.md R50). -/
abbrev CmdWord := BitVec 98

end Sys2Proof
end

