-- ==== Sys2Proof/Config.lean ====
section
/-! DEFINITION. What an implementation of the block fixes (00_scope.md R7) and the free values: what the spec leaves
unspecified. A constant declared without a body is one whose value no proof can see. -/

namespace Sys2Proof

/-- DIM_BITS: width of WIDTH and HEIGHT, two's-complement signed (R7, D3). -/
def Config.dimBits : Nat := 32

/-- LEN_BITS: width of LEN and OUT_LEN, unsigned (R7, D4). -/
def Config.lenBits : Nat := 32

/-- The largest capacity R7 allows: `2^(LEN_BITS-2) - 1`. -/
def Config.capPixelsMax : Nat := 2 ^ (Config.lenBits - 2) - 1

/-- The implementer's pick for CAP_PIXELS, before R7's bounds are applied. -/
opaque Config.capPixelsRaw : Nat

/-- CAP_PIXELS, OPEN in R7 with `1 ≤ CAP_PIXELS ≤ 2^(LEN_BITS-2) - 1`: every value in that range is possible and no
other is. -/
def Config.capPixels : Nat := max 1 (min Config.capPixelsRaw Config.capPixelsMax)

/-- The implementer's pick for the number of instances, less one. -/
opaque Config.extraInstances : Nat

/-- N_INST, OPEN in R7 with `N_INST ≥ 1`. -/
def Config.nInst : Nat := Config.extraInstances + 1

/-- The value that instance `j` gives its host at its `k`-th draw, for a read of a byte the spec leaves unspecified (U3, U4
of 93_implementation_defined.md: any value, a draw under no law): `freeByte j k`. Nothing relates the draws of two
instances (notes/assumptions/7.md). -/
opaque Config.freeByte : Nat → Nat → Byte

/-- While a command is in flight the spec fixes no duration (R158): `engineTurn j k` says whether the engine of instance
`j`, at its `k`-th choice, ends its command before the host's next action (true) or after it (false). Nothing relates the
durations on two instances (notes/assumptions/10.md). -/
opaque Config.engineTurn : Nat → Nat → Bool

end Sys2Proof
end

