-- ==== Sys2Proof/Machine/Constants.lean ====
section
/-! DEFINITION. The named constants of the block (00_scope.md R6): fixed, not run-time configuration. -/

namespace Sys2Proof.Machine

/-- BPP_PACKED4: bytes per Packed4 pixel. -/
def bppPacked4 : Nat := 4
/-- BPP_LUMAPLANE: bytes per LumaPlane pixel. -/
def bppLumaPlane : Nat := 1
/-- LUMA_WR, in thousandths. -/
def lumaWR : Nat := 299
/-- LUMA_WG, in thousandths. -/
def lumaWG : Nat := 587
/-- LUMA_WB, in thousandths. -/
def lumaWB : Nat := 114
/-- The denominator of the three weights (R78). -/
def lumaDenominator : Nat := 1000
/-- BRIGHT_THRESHOLD: a pixel is bright when its luma is strictly greater. -/
def brightThreshold : Nat := 180
/-- BLUR_RADIUS. -/
def blurRadius : Nat := 2
/-- BLUR_TAPS. -/
def blurTaps : Nat := 5
/-- BLUR_DIVISOR. -/
def blurDivisor : Nat := 5
/-- LUMAGRAY_ALPHA. -/
def lumagrayAlpha : Byte := 255
/-- CH_MIN. -/
def chMin : Nat := 0
/-- CH_MAX. -/
def chMax : Nat := 255

end Sys2Proof.Machine
end

