-- ==== Sys2Proof/Syntax.lean ====
section
/-! DEFINITION. The instruction set: the four commands of 30_encoding.md R51, one constructor per row of
spec/opcode_table.json. -/

namespace Sys2Proof

/-- A command, written with the integers of R58's notation (`BLOOM w=3 h=3 len=36`): width and height in pixels, and
the length in bytes of the input sequence. WellFormed.lean says which integers the registers can hold. -/
inductive Instr where
  /-- op 0, Grayscale (41_point_filters.md R90). -/
  | gray (width height : Int) (len : Nat)
  /-- op 1, Negative (41_point_filters.md R91). -/
  | neg (width height : Int) (len : Nat)
  /-- op 2, LumaGrayscale (41_point_filters.md R92). -/
  | lumagray (width height : Int) (len : Nat)
  /-- op 3, Bloom (43_bloom.md R119). -/
  | bloom (width height : Int) (len : Nat)
  deriving DecidableEq, Repr

end Sys2Proof
end

