-- ==== Sys2Proof/WellFormed.lean ====
section
/-! DEFINITION. Which commands the registers can express: width and height are s32, len is u32 (30_encoding.md R50, R53;
R58: a call outside these ranges "cannot be expressed in the registers"). Nothing else is ill formed: dimensions that
describe no buffer are invalid INPUT, not an illegal encoding (R57). -/

namespace Sys2Proof

/-- `v` is an `sN` for N = DIM_BITS (00_scope.md R8). -/
abbrev DimInRange (v : Int) : Prop := -(2 ^ (Config.dimBits - 1) : Int) ≤ v ∧ v < 2 ^ (Config.dimBits - 1)

/-- `n` is a `uN` for N = LEN_BITS (00_scope.md R8). -/
abbrev LenInRange (n : Nat) : Prop := n < 2 ^ Config.lenBits

/-- The three operand ranges together. -/
abbrev OperandsInRange (width height : Int) (len : Nat) : Prop :=
  DimInRange width ∧ DimInRange height ∧ LenInRange len

/-- A command that four register writes can issue. -/
def Instr.wellFormed : Instr → Bool
  | .gray w h n => decide (OperandsInRange w h n)
  | .neg w h n => decide (OperandsInRange w h n)
  | .lumagray w h n => decide (OperandsInRange w h n)
  | .bloom w h n => decide (OperandsInRange w h n)

/-- A command that four register writes can issue, as a proposition. -/
abbrev WellFormed (i : Instr) : Prop := i.wellFormed = true

end Sys2Proof
end

