-- ==== Sys2Proof/Decode.lean ====
section
/-! DEFINITION. The decoder of the command word (30_encoding.md R50, R51, R53), total on any word and on any bytes, and
the encoder, written from the same tables. -/

namespace Sys2Proof

/-! ### The fields of the 98-bit command word (R50) -/

/-- Bits [1:0]: op. -/
def CmdWord.op (w : CmdWord) : BitVec 2 := w.extractLsb' 0 2
/-- Bits [33:2]: width. -/
def CmdWord.width (w : CmdWord) : Word := w.extractLsb' 2 32
/-- Bits [65:34]: height. -/
def CmdWord.height (w : CmdWord) : Word := w.extractLsb' 34 32
/-- Bits [97:66]: len. -/
def CmdWord.len (w : CmdWord) : Word := w.extractLsb' 66 32

/-- `len ++ height ++ width ++ op` (R50). -/
def CmdWord.pack (op : BitVec 2) (width height len : Word) : CmdWord :=
  ((len ++ height ++ width ++ op : BitVec (32 + 32 + 32 + 2))).cast (by decide)

/-! ### Opcodes and operand assembly -/

/-- `sext_32` of a field (R53, 00_scope.md R8). -/
def sext32 (v : Word) : Int := v.toInt

/-- `zext_32` of a field (R53, 00_scope.md R8). -/
def zext32 (v : Word) : Nat := v.toNat

/-- The opcode map (R51): every value of the 2-bit field selects an operation. -/
def decodeFields (op : BitVec 2) (width height len : Word) : Instr :=
  match op with
  | 0#2 => .gray (sext32 width) (sext32 height) (zext32 len)
  | 1#2 => .neg (sext32 width) (sext32 height) (zext32 len)
  | 2#2 => .lumagray (sext32 width) (sext32 height) (zext32 len)
  | 3#2 => .bloom (sext32 width) (sext32 height) (zext32 len)

/-- The command a 98-bit command word names: never a rejection (R51, R57). -/
def decodeWord (w : CmdWord) : Instr := decodeFields w.op w.width w.height w.len

/-! ### Command words as bytes

The hardware receives the four fields through four registers and has no command memory (R50, R47). Where a byte string
is asked for, the model writes the word's 98 bits in 13 bytes, lowest first, the six bits above bit 97 zero.
DESIGN CHOICE, notes/assumptions/2.md: safe. -/

/-- Why a byte string is no command word. -/
inductive DecodeError where
  /-- Fewer than 13 bytes. -/
  | tooShort
  /-- One of the six bits above bit 97 is set. -/
  | padBitsSet
  deriving DecidableEq, Repr

/-- Bytes of a command word as a byte string. -/
def cmdBytes : Nat := 13

/-- The number a little-endian byte string spells. -/
def fromBytesLE : List Byte → Nat
  | [] => 0
  | b :: bs => b.toNat + 256 * fromBytesLE bs

/-- The `count` lowest bytes of a number, lowest first. -/
def toBytesLE : Nat → Nat → List Byte
  | 0, _ => []
  | count + 1, n => BitVec.ofNat 8 n :: toBytesLE count (n / 256)

/-- Decode the command at the front of a byte string and answer it with the bytes after it. -/
def decode (bytes : List Byte) : Except DecodeError (Instr × List Byte) :=
  if bytes.length < cmdBytes then .error .tooShort
  else if 2 ^ 98 ≤ fromBytesLE (bytes.take cmdBytes) then .error .padBitsSet
  else .ok (decodeWord (BitVec.ofNat 98 (fromBytesLE (bytes.take cmdBytes))), bytes.drop cmdBytes)

/-- The instruction the decoder reads from an instruction whose `nbits` bits are `w`, bit 0 the least significant bit of
the command word (R50), every bit above `nbits` zero. -/
def decodeTableWord (nbits w : Nat) : Option Instr :=
  match decode (toBytesLE cmdBytes (w % 2 ^ nbits)) with
  | .ok (i, _) => some i
  | .error _ => none

/-! ### The encoder -/

/-- A dimension as the 32-bit pattern whose `sext_32` it is. -/
def dimField (v : Int) : Word := BitVec.ofInt 32 v

/-- A length as the 32-bit pattern whose `zext_32` it is. -/
def lenField (n : Nat) : Word := BitVec.ofNat 32 n

/-- The op field of a command (R51). -/
def Instr.op : Instr → BitVec 2
  | .gray _ _ _ => 0
  | .neg _ _ _ => 1
  | .lumagray _ _ _ => 2
  | .bloom _ _ _ => 3

/-- The width operand of a command. -/
def Instr.width : Instr → Int
  | .gray w _ _ | .neg w _ _ | .lumagray w _ _ | .bloom w _ _ => w

/-- The height operand of a command. -/
def Instr.height : Instr → Int
  | .gray _ h _ | .neg _ h _ | .lumagray _ h _ | .bloom _ h _ => h

/-- The length operand of a command. -/
def Instr.len : Instr → Nat
  | .gray _ _ n | .neg _ _ n | .lumagray _ _ n | .bloom _ _ n => n

/-- The command word of a command (R50). -/
def encode (i : Instr) : CmdWord :=
  CmdWord.pack i.op (dimField i.width) (dimField i.height) (lenField i.len)

/-- The command word as a byte string, 13 bytes, lowest first. -/
def encodeBytes (i : Instr) : List Byte := toBytesLE cmdBytes (encode i).toNat

/-! ### Textual form (R58) -/

/-- The mnemonic of a command (R51). -/
def Instr.mnemonic : Instr → String
  | .gray _ _ _ => "GRAY"
  | .neg _ _ _ => "NEG"
  | .lumagray _ _ _ => "LUMAGRAY"
  | .bloom _ _ _ => "BLOOM"

/-- `<MNEMONIC> w=<width> h=<height> len=<len>`, decimal integers (R58). -/
def Instr.text (i : Instr) : String :=
  i.mnemonic ++ " w=" ++ toString i.width ++ " h=" ++ toString i.height ++ " len=" ++ toString i.len

end Sys2Proof
end

