-- ==== Sys2Proof/Machine/State.lean ====
section
/-! DEFINITION. The state of one instance of the block (10_state.md R10), its reset value (R24), and why the machine can
stop. Plain data throughout. -/

namespace Sys2Proof.Machine

/-- The sequencer's phases (10_state.md R13); they play the part of a program counter. -/
inductive Phase where
  /-- No command in flight. -/
  | idle
  /-- Validation, then the capacity check (R70, R135). -/
  | check
  /-- The per-pixel transform of GRAY, NEG or LUMAGRAY. -/
  | point
  /-- Bright-pass extraction into BP (R115). -/
  | bright
  /-- Horizontal pass, BP to HB (R102). -/
  | hblur
  /-- Vertical pass, HB to VB (R103). -/
  | vblur
  /-- Additive recombination into DST (R118). -/
  | recomb
  /-- FATAL = 1, nothing runs until reset. -/
  | halt
  deriving DecidableEq, Repr

/-- The latched command `cmd` (R18): OP, WIDTH, HEIGHT, LEN as they stood at the accepted START. -/
structure Cmd where
  op : BitVec 2
  width : Word
  height : Word
  len : Word
  deriving DecidableEq, Repr

/-- A decoded Packed4 pixel, in the tuple order of 00_scope.md R8; the byte order is R31's. -/
structure Pixel where
  a : Byte
  r : Byte
  g : Byte
  b : Byte
  deriving DecidableEq, Repr

/-- An element of an internal plane (30_encoding.md R56). -/
structure Triple where
  r : Byte
  g : Byte
  b : Byte
  deriving DecidableEq, Repr

/-- A byte buffer: the bytes written since reset, as (index, byte) pairs with strictly rising indices. An index that is
not listed holds no value: the spec leaves it unspecified (R24, U2, U3). -/
abbrev Memory := List Host.Cell

/-- The canonical form: indices strictly rising, so each index is listed at most once and equal contents are equal
lists. -/
abbrev Memory.wf (m : Memory) : Prop := m.Pairwise (fun c d => c.1 < d.1)

/-- One host access or input (20_memory.md R36, R38; 30_encoding.md R58; 70_reset_and_hazards.md R150). `size` is the
access's width in bytes: the interface defines 4 for registers and 1 for buffers and no other. -/
inductive HostAction where
  /-- `WR`: write the register at a byte offset. -/
  | regWrite (offset size : Nat) (value : Word)
  /-- `RD`: read the register at a byte offset. -/
  | regRead (offset size : Nat)
  /-- `LDSRC`, one byte of it. -/
  | srcWrite (index size : Nat) (value : Byte)
  /-- Read one byte of SRC. -/
  | srcRead (index size : Nat)
  /-- Write one byte of DST; the block ignores it (R20). -/
  | dstWrite (index size : Nat) (value : Byte)
  /-- `RDDST`, one byte of it. -/
  | dstRead (index size : Nat)
  /-- `RDDST 0, OUT_LEN`: the result, with OUT_LEN as it is then. -/
  | collect
  /-- `WAIT`: read STATUS until BUSY = 0. -/
  | wait
  /-- The reset input (R150, R151). -/
  | reset
  deriving DecidableEq, Repr

/-- What a host read returned. -/
inductive HostReply where
  | reg (offset : Nat) (value : Word)
  | src (index : Nat) (value : Byte)
  | dst (index : Nat) (value : Byte)
  deriving DecidableEq, Repr

/-- Why the machine stops with a fault. -/
inductive Fault where
  /-- A command that passed its checks reads an SRC byte the host has not written since reset. Raised by the four
  meanings and by the sequencer's stages that read SRC (U2: "a model faults (or refuses the launch) rather than choosing
  a value"). Safe: the model stops where the hardware goes on with a value nothing fixes. -/
  | srcUnwritten
  /-- The block is in HALT and the host has nothing more to do: "nothing runs until reset" (R13, R136). Raised by the
  engine's step only; the command that ran out of capacity itself ends in a next state. Safe. -/
  | halted
  deriving DecidableEq, Repr

/-- Why the machine refuses. -/
inductive Refusal where
  /-- An instruction that has no meaning in the model yet. Raised by an arm of exec. Safe. -/
  | notModelled (mnemonic : String)
  /-- A register offset that does not exist (U5, R39). Raised by a host register access. Safe. -/
  | undefinedRegister
  /-- An access of a width the interface does not define (U5, R36). Raised by a host access. Safe. -/
  | undefinedAccessWidth
  /-- A buffer index of 4×CAP_PIXELS or more (U5, R36). Raised by a host access to SRC or DST. Safe. -/
  | indexOutOfRange
  /-- The phase is POINT while BLOOM is latched; R13's table has no such state and no step reaches it. Raised by the
  sequencer. Safe. -/
  | pointPhaseOfBloom
  deriving DecidableEq, Repr

/-- One instance of the block (R10), and below it the model's own fields. -/
structure State where
  /-- OP (R11). -/
  op : BitVec 2
  /-- WIDTH (R11). -/
  width : Word
  /-- HEIGHT (R11). -/
  height : Word
  /-- LEN (R11). -/
  len : Word
  /-- STATUS.BUSY (R14, R16). -/
  busy : Bool
  /-- STATUS.DONE (R14, R16). -/
  done : Bool
  /-- STATUS.FATAL (R14, R16). -/
  fatal : Bool
  /-- OUT_LEN (R17). -/
  outLen : Word
  /-- The latched command (R18). Between commands its value is irrelevant; the model keeps the last one
  (notes/assumptions/25.md). -/
  cmd : Cmd
  /-- The sequencer state (R13). -/
  phase : Phase
  /-- The input buffer SRC (R19). -/
  src : Memory
  /-- The output buffer DST (R20). -/
  dst : Memory
  /-- The plane BP (R21), in pixel order. Outside a BLOOM the planes' contents are unspecified; the model keeps the last
  ones (notes/assumptions/16.md). -/
  bp : List Triple
  /-- The plane HB (R21). -/
  hb : List Triple
  /-- The plane VB (R21). -/
  vb : List Triple
  /-- CAP_PIXELS of this instance (R7), a constant of the hardware: nothing ever writes it. The model's own field. -/
  capPixels : Nat
  /-- Which instance this is, so that no two share their free values (notes/assumptions/24.md): nothing ever writes it and
  no command or host access can see it (R141). The model's own field. -/
  instanceNo : Nat
  /-- How many free values have been drawn: the second argument of the next one. The model's own field. -/
  draws : Nat
  /-- The host's pending actions, next first (R161: a host program). The model's own field. -/
  hostQueue : List HostAction
  /-- What the host's reads returned, newest first. The model's own field. -/
  hostReplies : List HostReply
  deriving DecidableEq, Repr

/-- The block after reset (R24, R150). `cmd` and the planes are unspecified there and irrelevant; the model holds zeros
and empty sequences (DESIGN CHOICE, notes/assumptions/8.md: unsafe). SRC and DST list nothing: no byte has a value. The
model's own fields: notes/assumptions/4.md, 17.md and 24.md. -/
def State.reset : State where
  op := 0
  width := 0
  height := 0
  len := 0
  busy := false
  done := false
  fatal := false
  outLen := 0
  cmd := { op := 0, width := 0, height := 0, len := 0 }
  phase := .idle
  src := []
  dst := []
  bp := []
  hb := []
  vb := []
  capPixels := Config.capPixels
  instanceNo := 0
  draws := 0
  hostQueue := []
  hostReplies := []

end Sys2Proof.Machine
end

