-- ==== Sys2Proof/Machine/Ops.lean ====
section
/-! DEFINITION. The named operations over the buffers and registers: reading and writing bytes, latching a command,
taking an exception, publishing a result, resetting. -/

namespace Sys2Proof.Machine

/-! ### Bytes of a buffer -/

/-- `MemRead(S, a, 1)` (00_scope.md R8): the byte at an index, none where nothing has been written since reset. -/
def Memory.read : Memory → Nat → Option Byte
  | [], _ => none
  | c :: rest, a => if c.1 = a then some c.2 else Memory.read rest a

/-- `MemWrite(S, a, 1, v)`, keeping the canonical form. -/
def Memory.write : Memory → Nat → Byte → Memory
  | [], a, v => [(a, v)]
  | c :: rest, a, v =>
    if a < c.1 then (a, v) :: c :: rest
    else if a = c.1 then (a, v) :: rest
    else c :: Memory.write rest a v

/-- `MemWrite(S, a, n, v)`: the bytes of a sequence at consecutive indices, lowest first. -/
def Memory.writeBytes : Memory → Nat → List Byte → Memory
  | m, _, [] => m
  | m, a, v :: vs => Memory.writeBytes (m.write a v) (a + 1) vs

/-- All the values of a sequence, or none when one of them is missing. -/
def allSome {α : Type} : List (Option α) → Option (List α)
  | [] => some []
  | none :: _ => none
  | some v :: rest => (allSome rest).map (fun vs => v :: vs)

/-- The number of bytes SRC holds, and DST (R19, R20). -/
def State.bufBytes (s : State) : Nat := 4 * s.capPixels

/-! ### The latched command -/

/-- The latched command as the command word of R50. -/
def Cmd.word (c : Cmd) : CmdWord := CmdWord.pack c.op c.width c.height c.len

/-- The command the sequencer runs: R50 and R51 read on `cmd`, never on the live registers (R18). -/
def State.fetch (s : State) : Instr := decodeWord s.cmd.word

/-- What an accepted START does (R15): latch the operand registers, clear DONE and OUT_LEN, set BUSY, enter CHECK. -/
def State.launch (s : State) : State :=
  { s with
    cmd := { op := s.op, width := s.width, height := s.height, len := s.len }
    done := false
    outLen := 0
    busy := true
    phase := .check }

/-- The operand registers set to the fields of a command word (R50). -/
def State.setOperands (s : State) (w : CmdWord) : State :=
  { s with op := w.op, width := w.width, height := w.height, len := w.len }

/-- The block as a host leaves it that has loaded a command word's fields and started it: operands set, FATAL clear, the
START accepted, and nothing more for the host to do. What SRC holds is untouched. -/
def State.launchWord (s : State) (w : CmdWord) : State :=
  { (s.setOperands w).launch with fatal := false, hostQueue := [] }

/-! ### The end of a command -/

/-- The exceptions of a command (60_exceptions.md R130, R135). -/
inductive Exc where
  /-- InvalidInput: the one error kind. -/
  | invalidInput
  /-- Fatal(Capacity). -/
  | capacity
  deriving DecidableEq, Repr

/-- `raise` (R132, R136): the exception entry of this hardware. Nothing is saved and control goes nowhere, so there is no
return from one (R137); InvalidInput leaves the block IDLE with an empty result, Fatal(Capacity) leaves it in HALT. That
`cmd`, irrelevant after the command (R18, U7), keeps its value is the model's choice: DESIGN CHOICE,
notes/assumptions/25.md. -/
def State.raise (s : State) : Exc → State
  | .invalidInput => { s with outLen := 0, busy := false, done := true, phase := .idle }
  | .capacity => { s with fatal := true, busy := false, phase := .halt }

/-- Publish a result of `n` bytes, which stand in DST already: one atomic action (R17). That `cmd` and the planes, which
R18, R21 and U7 leave unspecified outside a command, keep what they hold is the model's choice: DESIGN CHOICE,
notes/assumptions/25.md for `cmd`, 16.md for the planes. -/
def State.publish (s : State) (n : Nat) : State :=
  { s with outLen := BitVec.ofNat 32 n, busy := false, done := true, phase := .idle }

/-! ### Reset -/

/-- The reset input (R150, R151): the state of R24, whatever the block was doing. CAP_PIXELS and which instance this is
are constants of the hardware, and what is the host's (its pending actions, what it has read, the draws made) is not
the block's to reset (notes/assumptions/18.md). -/
def State.afterReset (s : State) : State :=
  { State.reset with
    capPixels := s.capPixels
    instanceNo := s.instanceNo
    draws := s.draws
    hostQueue := s.hostQueue
    hostReplies := s.hostReplies }

/-! ### What the host gets back -/

/-- The next free value, and the state that has drawn it (notes/assumptions/7.md). -/
def State.draw (s : State) : Byte × State :=
  (Config.freeByte s.instanceNo s.draws, { s with draws := s.draws + 1 })

/-- Hand a read's value to the host. -/
def State.reply (s : State) (r : HostReply) : State := { s with hostReplies := r :: s.hostReplies }

end Sys2Proof.Machine
end

