-- ==== Sys2Proof/Machine/Operands.lean ====
section
/-! DEFINITION. The operand forms and the primitives every command is built from: validation and the capacity check,
the Packed4 and LumaPlane codecs, the saturation primitive and the luma function (40_validator_codec.md). -/

namespace Sys2Proof.Machine

/-! ### Validation and capacity -/

/-- `bpp(op)`: bytes per input pixel (R52). -/
def bpp (op : BitVec 2) : Nat := if op = 2 then bppLumaPlane else bppPacked4

/-- `outlen(op, w, h)`: every command's output is Packed4 (R52). -/
def outLength (pixels : Nat) : Nat := bppPacked4 * pixels

/-- VALIDATE (R70), over the integers: the product never wraps (R72). -/
def validate (len : Nat) (width height : Int) (bytesPerPixel : Nat) : Bool :=
  decide (0 < width) && decide (0 < height) && decide ((len : Int) = width * height * bytesPerPixel)

/-- The checks of the CHECK phase in their order (R134): validation alone decides InvalidInput, and only a command that
passed it is held against the capacity (R135). None: the command goes on. -/
def checkCommand (len : Nat) (width height : Int) (bytesPerPixel cap : Nat) : Option Exc :=
  if validate len width height bytesPerPixel then
    if (cap : Int) < width * height then some .capacity else none
  else some .invalidInput

/-! ### Arithmetic -/

/-- `clamp8` (R77): saturate an integer of any sign and size to a u8. -/
def clamp8 (v : Int) : Byte :=
  if v < chMin then BitVec.ofNat 8 chMin else if v > chMax then BitVec.ofNat 8 chMax else BitVec.ofInt 8 v

/-- `clampi` (R8, R101). -/
def clampi (v lo hi : Int) : Int := if v < lo then lo else if v > hi then hi else v

/-- `luma8` (R78): the exact weighted sum, truncated. The one function to change for another reading of the luma
arithmetic (93_implementation_defined.md U1, notes/assumptions/11.md). -/
def luma8 (r g b : Byte) : Byte :=
  BitVec.ofNat 8 ((lumaWR * r.toNat + lumaWG * g.toNat + lumaWB * b.toNat) / lumaDenominator)

/-! ### The two pixel layouts -/

/-- `px(i)`: blue, green, red, alpha at bytes 4i to 4i+3 (R31, R73). -/
def pixelAt (m : Memory) (i : Nat) : Option Pixel :=
  match m.read (4 * i), m.read (4 * i + 1), m.read (4 * i + 2), m.read (4 * i + 3) with
  | some b, some g, some r, some a => some { a := a, r := r, g := g, b := b }
  | _, _, _, _ => none

/-- decodePacked4 (R73): the first `n` pixels, none when one of their bytes holds no value. -/
def decodePacked4 (m : Memory) (n : Nat) : Option (List Pixel) := allSome ((List.range n).map (pixelAt m))

/-- The four bytes of a pixel (R31, R74). -/
def Pixel.bytes (p : Pixel) : List Byte := [p.b, p.g, p.r, p.a]

/-- The little-endian word view of a pixel (R32, R54): a description, no access the block makes. -/
def Pixel.word (p : Pixel) : Word := p.a ++ p.r ++ p.g ++ p.b

/-- The byte string of a pixel sequence, 4 bytes a pixel (R74). -/
def packPixels (ps : List Pixel) : List Byte := ps.flatMap Pixel.bytes

/-- encodePacked4 (R74): write the pixels at the front of a buffer. -/
def encodePacked4 (m : Memory) (ps : List Pixel) : Memory := m.writeBytes 0 (packPixels ps)

/-- decodeLumaPlane (R76): one unsigned byte a pixel. -/
def decodeLumaPlane (m : Memory) (n : Nat) : Option (List Byte) := allSome ((List.range n).map m.read)

/-- The pixel index of column `x`, row `y` in row-major order without padding (R34). -/
def pixelIndex (width x y : Nat) : Nat := y * width + x

/-- Write a command's output pixels into DST (R20). -/
def State.storePixels (s : State) (ps : List Pixel) : State := { s with dst := encodePacked4 s.dst ps }

end Sys2Proof.Machine
end

