-- ==== Sys2Proof/Machine/Flags.lean ====
section
/-! DEFINITION. The flags BUSY, DONE and FATAL (10_state.md R14): the STATUS word they make up, the gates they hold, and
what the phase says of them (R13). -/

namespace Sys2Proof.Machine

/-- BUSY as the phase gives it: neither IDLE nor HALT (R13). -/
def Phase.isBusy : Phase → Bool
  | .idle | .halt => false
  | .check | .point | .bright | .hblur | .vblur | .recomb => true

/-- FATAL as the phase gives it: HALT (R13). -/
def Phase.isFatal : Phase → Bool
  | .halt => true
  | .idle | .check | .point | .bright | .hblur | .vblur | .recomb => false

/-- The STATUS register (R16): BUSY in bit 0, DONE in bit 1, FATAL in bit 2, the others read as 0. -/
def State.status (s : State) : Word :=
  BitVec.ofNat 32 (s.busy.toNat + 2 * s.done.toNat + 4 * s.fatal.toNat)

/-- Whether a START is accepted (R15, R156). -/
def State.startAccepted (s : State) : Bool := !s.busy && !s.fatal

/-- Whether a host write to SRC or an operand register takes effect (R154). -/
def State.writesLand (s : State) : Bool := !s.busy

/-- Whether a host read of DST at an index is defined: DONE = 1 and the index below OUT_LEN (R20, R155). -/
def State.resultReadable (s : State) (index : Nat) : Bool := s.done && decide (index < s.outLen.toNat)

/-- A CTRL write (R15): START in bit 0, everything else ignored. -/
def State.writeCtrl (s : State) (value : Word) : State :=
  if value.getLsbD 0 && s.startAccepted then s.launch else s

end Sys2Proof.Machine
end

