-- ==== Sys2Proof/Machine/HostPort.lean ====
section
/-! DEFINITION. The host interface: register and buffer accesses (20_memory.md R36 to R38), waiting, collecting a result,
reset (70_reset_and_hazards.md R150 to R160), and the host notation of 30_encoding.md R58. -/

namespace Sys2Proof.Machine

/-! ### Registers -/

/-- The registers and their byte offsets (R11, R15 to R17, R39): nothing at any other offset. -/
inductive HostReg where
  | ctrl
  | status
  | op
  | width
  | height
  | len
  | outLen
  deriving DecidableEq, Repr

/-- The byte offset of a register. -/
def HostReg.offset : HostReg → Nat
  | .ctrl => 0x00
  | .status => 0x04
  | .op => 0x08
  | .width => 0x0C
  | .height => 0x10
  | .len => 0x14
  | .outLen => 0x18

/-- The register at a byte offset. -/
def regAt (offset : Nat) : Option HostReg :=
  match offset with
  | 0x00 => some .ctrl
  | 0x04 => some .status
  | 0x08 => some .op
  | 0x0C => some .width
  | 0x10 => some .height
  | 0x14 => some .len
  | 0x18 => some .outLen
  | _ => none

/-- What a register reads as (R11, R15, R16, R17); reading changes nothing (R37). -/
def State.readReg (s : State) : HostReg → Word
  | .ctrl => 0
  | .status => s.status
  | .op => s.op.setWidth 32
  | .width => s.width
  | .height => s.height
  | .len => s.len
  | .outLen => s.outLen

/-- A register write: CTRL may start a command, STATUS and OUT_LEN ignore it, an operand register takes it unless the
block is busy (R11, R15 to R17, R154). -/
def State.writeReg (s : State) (reg : HostReg) (value : Word) : State :=
  match reg with
  | .ctrl => s.writeCtrl value
  | .status => s
  | .op => if s.writesLand then { s with op := value.setWidth 2 } else s
  | .width => if s.writesLand then { s with width := value } else s
  | .height => if s.writesLand then { s with height := value } else s
  | .len => if s.writesLand then { s with len := value } else s
  | .outLen => s

/-! ### Buffers -/

/-- A host write of an SRC byte, dropped while the block is busy (R19, R154). -/
def State.writeSrc (s : State) (index : Nat) (value : Byte) : State :=
  if s.writesLand then { s with src := s.src.write index value } else s

/-- A read that returns a free value. -/
def State.replyFree (s : State) (mk : Byte → HostReply) : State := s.draw.2.reply (mk s.draw.1)

/-- A host read of an SRC byte: the byte last written while the block is not busy; an unspecified value while it is (R154,
U4), and where nothing has been written since reset (R24, notes/assumptions/13.md). -/
def State.readSrc (s : State) (index : Nat) : State :=
  if s.busy then s.replyFree (.src index)
  else match s.src.read index with
    | some v => s.reply (.src index v)
    | none => s.replyFree (.src index)

/-- A host read of a DST byte: the result's byte where the read is defined, an unspecified value elsewhere (R20, R155,
U3). -/
def State.readDst (s : State) (index : Nat) : State :=
  if s.resultReadable index then
    match s.dst.read index with
    | some v => s.reply (.dst index v)
    | none => s.replyFree (.dst index)
  else s.replyFree (.dst index)

/-! ### Accesses -/

/-- A register access: one whole 32-bit register at an offset of the list, or a refusal (R36, U5). -/
def regAccess (offset size : Nat) (k : HostReg → State) : Host.Outcome State Fault Refusal :=
  if size = 4 then
    match regAt offset with
    | some r => .next (k r)
    | none => .refused .undefinedRegister
  else .refused .undefinedAccessWidth

/-- A buffer access: one byte at an index inside the buffer, or a refusal (R36, U5). -/
def bufAccess (s : State) (index size : Nat) (t : State) : Host.Outcome State Fault Refusal :=
  if size = 1 then
    if index < s.bufBytes then .next t else .refused .indexOutOfRange
  else .refused .undefinedAccessWidth

/-- One host action (R160). WAIT and the collecting of a result are here as they run when BUSY = 0: Machine/Arbiter.lean
holds a WAIT back while the block is busy. -/
def hostAct (a : HostAction) (s : State) : Host.Outcome State Fault Refusal :=
  match a with
  | .regWrite offset size value => regAccess offset size fun r => s.writeReg r value
  | .regRead offset size => regAccess offset size fun r => s.reply (.reg offset (s.readReg r))
  | .srcWrite index size value => bufAccess s index size (s.writeSrc index value)
  | .srcRead index size => bufAccess s index size (s.readSrc index)
  | .dstWrite index size _ => bufAccess s index size s
  | .dstRead index size => bufAccess s index size (s.readDst index)
  | .collect => .next { s with hostQueue := (List.range s.outLen.toNat).map (fun i => .dstRead i 1) ++ s.hostQueue }
  | .wait => .next s
  | .reset => .next s.afterReset

/-! ### The host notation (R58) -/

/-- `WR <REG>, <value>`. -/
def wr (r : HostReg) (value : Word) : List HostAction := [.regWrite r.offset 4 value]

/-- `RD <REG>`. -/
def rd (r : HostReg) : List HostAction := [.regRead r.offset 4]

/-- `LDSRC <index>, <bytes>`. -/
def ldsrc : Nat → List Byte → List HostAction
  | _, [] => []
  | index, v :: vs => .srcWrite index 1 v :: ldsrc (index + 1) vs

/-- `RDDST <index>, <count>`. -/
def rddst (index count : Nat) : List HostAction := (List.range count).map fun i => .dstRead (index + i) 1

/-- The actions `CALL` expands to when the registers can hold its operands, for a block whose SRC holds `bufBytes` bytes:
the LDSRC step is left out when the bytes do not fit (R58). -/
def callActions (op : BitVec 2) (width height : Int) (bytes : List Byte) (bufBytes : Nat) : List HostAction :=
  (if bytes.length ≤ bufBytes then ldsrc 0 bytes else []) ++
    wr .op (op.setWidth 32) ++ wr .width (dimField width) ++ wr .height (dimField height) ++
    wr .len (lenField bytes.length) ++ wr .ctrl 1 ++ [.wait] ++ rd .status ++ rd .outLen ++ [.collect]

/-- `CALL <MNEMONIC> w, h, bytes` (R58). A call whose width or height is no s32, or whose bytes are 2^32 or more, "cannot be
expressed in the registers and is outside what the hardware can be asked" (R58, N4), and the spec gives it no effect: it
expands to nothing at all, none, and no operand is ever wrapped. DESIGN CHOICE, notes/assumptions/26.md: safe. -/
def call (op : BitVec 2) (width height : Int) (bytes : List Byte) (bufBytes : Nat) : Option (List HostAction) :=
  if OperandsInRange width height bytes.length then some (callActions op width height bytes bufBytes) else none

end Sys2Proof.Machine
end

