-- ==== Sys2Proof/Machine/BoxBlur.lean ====
section
/-! DEFINITION. The separable box blur in two truncating passes (42_box_blur.md). -/

namespace Sys2Proof.Machine

/-- The element of a plane at a pixel index. Every use has the index below the plane's length (R100); the triple of
zeros beyond it is never part of a result. -/
def planeAt (p : List Triple) (i : Nat) : Triple := p.getD i { r := 0, g := 0, b := 0 }

/-- `tapx`, `tapy` (R101): the position `x + k` moved to the nearest one in `[0, size − 1]`. -/
def tap (size x : Nat) (k : Int) : Nat := (clampi ((x : Int) + k) 0 ((size : Int) - 1)).toNat

/-- `clamp8(s div 5)` for the sum of five taps (R102, R103); the sum is over the integers and never wraps (R105). -/
def blurChannel (t0 t1 t2 t3 t4 : Byte) : Byte :=
  clamp8 (((t0.toNat + t1.toNat + t2.toNat + t3.toNat + t4.toNat) / blurDivisor : Nat) : Int)

/-- The three channels blurred independently and identically (R100). -/
def blurTriple (t0 t1 t2 t3 t4 : Triple) : Triple :=
  { r := blurChannel t0.r t1.r t2.r t3.r t4.r
    g := blurChannel t0.g t1.g t2.g t3.g t4.g
    b := blurChannel t0.b t1.b t2.b t3.b t4.b }

/-- `HB[x, y]` (R102). -/
def hblurAt (w : Nat) (p : List Triple) (x y : Nat) : Triple :=
  blurTriple
    (planeAt p (pixelIndex w (tap w x (-2)) y)) (planeAt p (pixelIndex w (tap w x (-1)) y))
    (planeAt p (pixelIndex w (tap w x 0) y))
    (planeAt p (pixelIndex w (tap w x 1) y)) (planeAt p (pixelIndex w (tap w x 2) y))

/-- `VB[x, y]` (R103). -/
def vblurAt (w h : Nat) (p : List Triple) (x y : Nat) : Triple :=
  blurTriple
    (planeAt p (pixelIndex w x (tap h y (-2)))) (planeAt p (pixelIndex w x (tap h y (-1))))
    (planeAt p (pixelIndex w x (tap h y 0)))
    (planeAt p (pixelIndex w x (tap h y 1))) (planeAt p (pixelIndex w x (tap h y 2)))

/-- HBLUR (R102): the whole plane, in pixel order. -/
def hblur (w h : Nat) (p : List Triple) : List Triple :=
  (List.range (w * h)).map fun i => hblurAt w p (i % w) (i / w)

/-- VBLUR (R103): the whole plane, in pixel order. -/
def vblur (w h : Nat) (p : List Triple) : List Triple :=
  (List.range (w * h)).map fun i => vblurAt w h p (i % w) (i / w)

/-- BLUR2 (R104): horizontal first, complete before the vertical pass reads it. -/
def blur2 (w h : Nat) (p : List Triple) : List Triple := vblur w h (hblur w h p)

end Sys2Proof.Machine
end

