-- ==== Sys2Proof/Machine/Command.lean ====
section
/-! DEFINITION. The frame every one of the four commands runs in (41_point_filters.md R89). -/

namespace Sys2Proof.Machine

/-- Store a body's output and publish it, or fault when the body read a byte that holds no value (R89, R17, U2). -/
def publishOrFault (pixels : Nat) (body : Option State) : Host.Outcome State Fault Refusal :=
  match body with
  | some t => .next (t.publish (outLength pixels))
  | none => .fault .srcUnwritten

/-- R89: the checks, the body on width and height as natural numbers, the publication; one atomic transition (R158). -/
def runCommand (bytesPerPixel : Nat) (body : Nat → Nat → State → Option State)
    (width height : Int) (len : Nat) (s : State) : Host.Outcome State Fault Refusal :=
  match checkCommand len width height bytesPerPixel s.capPixels with
  | some e => .next (s.raise e)
  | none => publishOrFault (width.toNat * height.toNat) (body width.toNat height.toNat s)

end Sys2Proof.Machine
end

