-- ==== Sys2Proof/Machine/Bloom.lean ====
section
/-! DEFINITION. The bloom pipeline and the command BLOOM (43_bloom.md). -/

namespace Sys2Proof.Machine

/-- `BP[i]` (R115): a pixel whose luma is strictly above the threshold keeps its channels, any other gives zero. -/
def brightPixel (p : Pixel) : Triple :=
  if (luma8 p.r p.g p.b).toNat > brightThreshold then { r := p.r, g := p.g, b := p.b } else { r := 0, g := 0, b := 0 }

/-- `out(i)` (R118): the original pixel with the blurred value added to each channel, saturating; alpha untouched. -/
def recombinePixel (p : Pixel) (v : Triple) : Pixel :=
  { a := p.a
    r := clamp8 ((p.r.toNat : Int) + v.r.toNat)
    g := clamp8 ((p.g.toNat : Int) + v.g.toNat)
    b := clamp8 ((p.b.toNat : Int) + v.b.toNat) }

/-- Stage BRIGHTPASS (R115): SRC to BP. -/
def brightStage (w h : Nat) (s : State) : Option State :=
  (decodePacked4 s.src (w * h)).map fun px => { s with bp := px.map brightPixel }

/-- Stage HBLUR (R102): BP to HB. -/
def hblurStage (w h : Nat) (s : State) : State := { s with hb := hblur w h s.bp }

/-- Stage VBLUR (R103): HB to VB. -/
def vblurStage (w h : Nat) (s : State) : State := { s with vb := vblur w h s.hb }

/-- Stage RECOMBINE (R118): SRC, read a second time, and VB to DST. -/
def recombineStage (w h : Nat) (s : State) : Option State :=
  (decodePacked4 s.src (w * h)).map fun px => s.storePixels (List.zipWith recombinePixel px s.vb)

/-- The body of BLOOM (R119): the four stages one after the other, each over the whole image (R44). That the planes still
hold the stages' outputs when the command has ended is the model's choice (R21, U7; notes/assumptions/16.md). -/
def bloomBody (w h : Nat) (s : State) : Option State :=
  (brightStage w h s).bind fun t => recombineStage w h (vblurStage w h (hblurStage w h t))

/-- BLOOM (R119). -/
def execBloom (width height : Int) (len : Nat) (s : State) : Host.Outcome State Fault Refusal :=
  runCommand (bpp 3) bloomBody width height len s

end Sys2Proof.Machine
end

