-- ==== Sys2Proof/Machine/PointFilters.lean ====
section
/-! DEFINITION. The point filter commands GRAY, NEG and LUMAGRAY (41_point_filters.md R90 to R92). -/

namespace Sys2Proof.Machine

/-- `out(i)` of GRAY (R90). -/
def grayPixel (p : Pixel) : Pixel :=
  { a := p.a, r := luma8 p.r p.g p.b, g := luma8 p.r p.g p.b, b := luma8 p.r p.g p.b }

/-- `255 − c` for a channel (R91). -/
def negChannel (c : Byte) : Byte := BitVec.ofNat 8 (chMax - c.toNat)

/-- `out(i)` of NEG (R91). -/
def negPixel (p : Pixel) : Pixel :=
  { a := p.a, r := negChannel p.r, g := negChannel p.g, b := negChannel p.b }

/-- `out(i)` of LUMAGRAY (R92). -/
def lumagrayPixel (y : Byte) : Pixel := { a := lumagrayAlpha, r := y, g := y, b := y }

/-- The body of GRAY. -/
def grayBody (w h : Nat) (s : State) : Option State :=
  (decodePacked4 s.src (w * h)).map fun px => s.storePixels (px.map grayPixel)

/-- The body of NEG. -/
def negBody (w h : Nat) (s : State) : Option State :=
  (decodePacked4 s.src (w * h)).map fun px => s.storePixels (px.map negPixel)

/-- The body of LUMAGRAY. -/
def lumagrayBody (w h : Nat) (s : State) : Option State :=
  (decodeLumaPlane s.src (w * h)).map fun ys => s.storePixels (ys.map lumagrayPixel)

/-- GRAY (R90). -/
def execGray (width height : Int) (len : Nat) (s : State) : Host.Outcome State Fault Refusal :=
  runCommand (bpp 0) grayBody width height len s

/-- NEG (R91). -/
def execNeg (width height : Int) (len : Nat) (s : State) : Host.Outcome State Fault Refusal :=
  runCommand (bpp 1) negBody width height len s

/-- LUMAGRAY (R92). -/
def execLumagray (width height : Int) (len : Nat) (s : State) : Host.Outcome State Fault Refusal :=
  runCommand (bpp 2) lumagrayBody width height len s

end Sys2Proof.Machine
end

