-- ==== Sys2Proof/Machine/Dispatch.lean ====
section
/-! DEFINITION. The dispatch: one arm per command of 30_encoding.md R51. -/

namespace Sys2Proof.Machine

def exec (i : Instr) (s : State) : Host.Outcome State Fault Refusal :=
  match i with
  | .gray width height len => Sys2Proof.Machine.execGray width height len s
  | .neg width height len => Sys2Proof.Machine.execNeg width height len s
  | .lumagray width height len => Sys2Proof.Machine.execLumagray width height len s
  | .bloom width height len => Sys2Proof.Machine.execBloom width height len s

end Sys2Proof.Machine
end

