-- ==== Sys2Proof/Machine/Sequencer.lean ====
section
/-! DEFINITION. The sequencer (10_state.md R13): the walk of the phases one at a time, and the engine's step, which takes
the whole walk from CHECK as one atomic transition (R13, R158). -/

namespace Sys2Proof.Machine

/-- Width of the latched command as a number of columns (R53). -/
def Cmd.columns (c : Cmd) : Nat := (sext32 c.width).toNat

/-- Height of the latched command as a number of rows (R53). -/
def Cmd.rows (c : Cmd) : Nat := (sext32 c.height).toNat

/-- Enter a phase. -/
def State.enter (s : State) (p : Phase) : State := { s with phase := p }

/-- A stage that reads SRC, or the fault of a byte that holds no value (U2). -/
def nextOrFault (stage : Option State) : Host.Outcome State Fault Refusal :=
  match stage with
  | some t => .next t
  | none => .fault .srcUnwritten

/-- The POINT phase: the point filter's transform over all pixels, published (R13, R89). -/
def pointPhase (s : State) : Host.Outcome State Fault Refusal :=
  match s.fetch with
  | .gray w h _ => publishOrFault (w.toNat * h.toNat) (grayBody w.toNat h.toNat s)
  | .neg w h _ => publishOrFault (w.toNat * h.toNat) (negBody w.toNat h.toNat s)
  | .lumagray w h _ => publishOrFault (w.toNat * h.toNat) (lumagrayBody w.toNat h.toNat s)
  | .bloom _ _ _ => .refused .pointPhaseOfBloom

/-- The CHECK phase (R13): an exception, or on to POINT or BRIGHT. -/
def checkPhase (s : State) : State :=
  match checkCommand s.fetch.len s.fetch.width s.fetch.height (bpp s.cmd.op) s.capPixels with
  | some e => s.raise e
  | none => s.enter (if s.cmd.op = 3 then .bright else .point)

/-- One phase of the sequencer (R13). In IDLE the block does nothing and keeps its state (R142); in HALT nothing runs. -/
def tick (s : State) : Host.Outcome State Fault Refusal :=
  match s.phase with
  | .idle => .next s
  | .check => .next (checkPhase s)
  | .point => pointPhase s
  | .bright => nextOrFault ((brightStage s.cmd.columns s.cmd.rows s).map fun t => t.enter .hblur)
  | .hblur => .next ((hblurStage s.cmd.columns s.cmd.rows s).enter .vblur)
  | .vblur => .next ((vblurStage s.cmd.columns s.cmd.rows s).enter .recomb)
  | .recomb => publishOrFault (s.cmd.columns * s.cmd.rows) (recombineStage s.cmd.columns s.cmd.rows s)
  | .halt => .fault .halted

/-- `k` phases, stopping at the first fault or refusal. -/
def ticks : Nat → State → Host.Outcome State Fault Refusal
  | 0, s => .next s
  | k + 1, s =>
    match tick s with
    | .next t => ticks k t
    | .fault r => .fault r
    | .refused r => .refused r

/-- The engine's step: a command in CHECK runs to its end in one transition (R13: "a model may replace the whole walk
from CHECK to IDLE by one atomic transition"); in any other phase, one phase of the walk. -/
def engineStep (s : State) : Host.Outcome State Fault Refusal :=
  match s.phase with
  | .check => exec s.fetch s
  | _ => tick s

end Sys2Proof.Machine
end

