-- ==== Sys2Proof/Machine/Arbiter.lean ====
section
/-! DEFINITION. Who moves next, the host or the engine (20_memory.md R41; 70_reset_and_hazards.md R158). -/

namespace Sys2Proof.Machine

/-- Whether the engine moves next although the host has an action pending: never while it is not busy; always while the
host waits; otherwise as the free choice says, since a command lasts "an unspecified finite number of host actions"
(R158). -/
def engineFirst (s : State) (a : HostAction) : Bool :=
  s.busy && (decide (a = .wait) || Config.engineTurn s.instanceNo s.draws)

/-- The choice used up. -/
def State.chosen (s : State) : State := { s with draws := s.draws + 1 }

/-- Take the host's next action off the queue. -/
def State.popHost (s : State) : State := { s with hostQueue := s.hostQueue.tail }

/-- One step of the block and its host: the engine alone when the host has nothing pending, otherwise whichever of the two
moves first. -/
def advance (s : State) : Host.Outcome State Fault Refusal :=
  match s.hostQueue with
  | [] => engineStep s
  | a :: _ => if engineFirst s a then engineStep s.chosen else hostAct a s.chosen.popHost

end Sys2Proof.Machine
end

