-- ==== Sys2Proof/Machine/Step.lean ====
section
/-! DEFINITION. The step of the machine, and the placing of a command where the next step runs it. -/

namespace Sys2Proof.Machine

/-- One step: the host's next action, or the engine's (Machine/Arbiter.lean). -/
def step (s : State) : Host.Outcome State Fault Refusal := advance s

/-- `s` with the command of bits `w` started, so that the next step runs it. The block has no command memory: a command is
the four operand registers at an accepted START (R15, R50), so this writes those registers and accepts the START
(notes/assumptions/3.md). -/
def State.withFetchWord (s : State) (nbits w : Nat) : State := s.launchWord (BitVec.ofNat 98 (w % 2 ^ nbits))

end Sys2Proof.Machine
end

