-- ==== Sys2Proof/Machine/Instances.lean ====
section
/-! DEFINITION. N_INST independent instances of the block (20_memory.md R48; 60_exceptions.md R141). -/

namespace Sys2Proof.Machine

/-- The instances, each a complete copy of the state of R10. -/
abbrev Instances := List State

/-- The `k`-th instance after reset (R24). What the spec leaves unspecified (U3, U4) or without a duration (R158) follows
no law across instances, so each draws from a sequence of its own: DESIGN CHOICE, notes/assumptions/24.md. -/
def Instances.resetAt (k : Nat) : State := { State.reset with instanceNo := k }

/-- Every instance after reset; N_INST is open (R7), and all have the one CAP_PIXELS that R7 names. -/
def Instances.reset : Instances := (List.range Config.nInst).map Instances.resetAt

/-- A step of the `k`-th instance: the others do nothing. None: there is no such instance, or it stops. -/
def stepInstance (k : Nat) (is : Instances) : Option Instances :=
  match is[k]? with
  | none => none
  | some s =>
    match step s with
    | .next t => some (is.set k t)
    | .fault _ => none
    | .refused _ => none

end Sys2Proof.Machine
end

