-- ==== Sys2Proof/Safety.lean ====
section
/-! DEFINITION. What counts as a run that went well (70_reset_and_hazards.md R161), the state invariant, and the
premises statements use. -/

namespace Sys2Proof.Machine

/-- A host program is over when its last action is done and BUSY = 0 (R161). -/
abbrev State.over (s : State) : Prop := s.hostQueue = [] ∧ s.busy = false

/-- A run is successful when FATAL = 0 at its end (R161). -/
abbrev State.successful (s : State) : Prop := s.over ∧ s.fatal = false

/-- Every index of a buffer's cells is below `bound`. -/
abbrev Memory.below (m : Memory) (bound : Nat) : Prop := ∀ c ∈ m, c.1 < bound

/-- The host has written the first `n` bytes (R152). -/
abbrev Memory.writtenTo (m : Memory) (n : Nat) : Prop := ∀ i < n, (m.read i).isSome = true

/-- VALIDATE as the spec writes it, over the integers (R70). -/
abbrev ValidFor (bytesPerPixel : Nat) (width height : Int) (len : Nat) : Prop :=
  0 < width ∧ 0 < height ∧ (len : Int) = width * height * bytesPerPixel

/-- Pixel `i` of a Packed4 buffer is (a, r, g, b): blue, green, red, alpha at bytes 4i to 4i+3 (R31). -/
abbrev Memory.holds (m : Memory) (i : Nat) (a r g b : Byte) : Prop :=
  m.read (4 * i) = some b ∧ m.read (4 * i + 1) = some g ∧ m.read (4 * i + 2) = some r ∧ m.read (4 * i + 3) = some a

/-- `t` is `s` with a result of `pixels` pixels published (R17): the flags, the phase and OUT_LEN. -/
abbrev State.publishedFrom (t s : State) (pixels : Int) : Prop :=
  t.busy = false ∧ t.done = true ∧ t.fatal = s.fatal ∧ t.phase = .idle ∧ (t.outLen.toNat : Int) = 4 * pixels

/-- Everything no command ever writes is the same in both states (R11, R12, R19). That this takes in the latched `cmd` after
a command's end is the model's choice (R18, U7; notes/assumptions/25.md). -/
abbrev State.agreesOutsideResult (s t : State) : Prop :=
  t.op = s.op ∧ t.width = s.width ∧ t.height = s.height ∧ t.len = s.len ∧ t.cmd = s.cmd ∧ t.src = s.src ∧
    t.capPixels = s.capPixels ∧ t.instanceNo = s.instanceNo ∧ t.draws = s.draws ∧
    t.hostQueue = s.hostQueue ∧ t.hostReplies = s.hostReplies

/-- A command just started (R15): in CHECK, busy, no result. -/
abbrev State.launched (s : State) : Prop :=
  s.phase = .check ∧ s.busy = true ∧ s.done = false ∧ s.fatal = false ∧ s.outLen = 0

/-- A host access the interface defines (R36). -/
abbrev HostAction.defined (a : HostAction) (bufBytes : Nat) : Prop :=
  match a with
  | .regWrite offset size _ | .regRead offset size => size = 4 ∧ (regAt offset).isSome = true
  | .srcWrite index size _ | .srcRead index size | .dstWrite index size _ | .dstRead index size =>
    size = 1 ∧ index < bufBytes
  | .collect | .wait | .reset => True

/-! ### The blur, as the spec writes it -/

/-- One of the three channels of a plane element (R100). -/
abbrev IsChannel (ch : Triple → Byte) : Prop := ch = Triple.r ∨ ch = Triple.g ∨ ch = Triple.b

/-- `x + k` moved to the nearest coordinate in `[0, size − 1]` (R101). -/
def edge (size x : Nat) (k : Int) : Nat := (max 0 (min ((x : Int) + k) ((size : Int) - 1))).toNat

/-- The sum of the five taps of (x, y) in its row (R102). -/
def rowTapSum (ch : Triple → Byte) (p : List Triple) (w x y : Nat) : Nat :=
  ([-2, -1, 0, 1, 2].map fun k => (ch (planeAt p (y * w + edge w x k))).toNat).sum

/-- The sum of the five taps of (x, y) in its column (R103). -/
def columnTapSum (ch : Triple → Byte) (p : List Triple) (w h x y : Nat) : Nat :=
  ([-2, -1, 0, 1, 2].map fun k => (ch (planeAt p (edge h y k * w + x))).toNat).sum

/-- The sum of the 25 taps around (x, y), which R104 contrasts with the two passes. -/
def boxTapSum (ch : Triple → Byte) (p : List Triple) (w h x y : Nat) : Nat :=
  ([-2, -1, 0, 1, 2].map fun k => rowTapSum ch p w x (edge h y k)).sum

/-- The plane whose three channels all hold a given single-channel plane. -/
def greyPlane (vs : List Byte) : List Triple := vs.map fun v => { r := v, g := v, b := v }

/-- Every sample of `p` is at most the sample of `q` in the same place. -/
abbrev PlaneLe (p q : List Triple) : Prop :=
  ∀ i (ch : Triple → Byte), IsChannel ch → (ch (planeAt p i)).toNat ≤ (ch (planeAt q i)).toNat

/-! ### The invariant -/

/-- Past CHECK the latched command is valid and fits (R13, R89). -/
abbrev Cmd.accepted (c : Cmd) (cap : Nat) : Prop :=
  checkCommand (zext32 c.len) (sext32 c.width) (sext32 c.height) (bpp c.op) cap = none

/-- What each phase past CHECK knows (R13): the command is accepted, POINT is not BLOOM's and the four other phases are
BLOOM's alone, and the plane a stage reads is complete (R44, R157). -/
abbrev State.phaseWf (s : State) : Prop :=
  match s.phase with
  | .idle | .check | .halt => True
  | .point => s.cmd.accepted s.capPixels ∧ s.cmd.op ≠ 3
  | .bright => s.cmd.accepted s.capPixels ∧ s.cmd.op = 3
  | .hblur => s.cmd.accepted s.capPixels ∧ s.cmd.op = 3 ∧ s.bp.length = s.cmd.columns * s.cmd.rows
  | .vblur => s.cmd.accepted s.capPixels ∧ s.cmd.op = 3 ∧ s.hb.length = s.cmd.columns * s.cmd.rows
  | .recomb => s.cmd.accepted s.capPixels ∧ s.cmd.op = 3 ∧ s.vb.length = s.cmd.columns * s.cmd.rows

/-- The invariant of the block. -/
structure State.Inv (s : State) : Prop where
  /-- SRC and DST are in canonical form. -/
  srcWf : s.src.wf
  dstWf : s.dst.wf
  /-- SRC and DST hold 4×CAP_PIXELS bytes (R19, R20). -/
  srcBelow : s.src.below s.bufBytes
  dstBelow : s.dst.below s.bufBytes
  /-- CAP_PIXELS is in R7's range. -/
  capPos : 1 ≤ s.capPixels
  capMax : s.capPixels ≤ Config.capPixelsMax
  /-- BUSY and FATAL are what the phase says (R13). -/
  busyPhase : s.busy = s.phase.isBusy
  fatalPhase : s.fatal = s.phase.isFatal
  /-- DONE stands only in IDLE, so at most one of the three flags is 1 (R14). -/
  doneIdle : s.done = true → s.phase = .idle
  /-- Without DONE there is no result length (R15, R17). -/
  outLenZero : s.done = false → s.outLen = 0
  /-- The result is whole pixels, and every byte of it has been written (R17, R43). -/
  outLenPixels : s.outLen.toNat % 4 = 0
  outLenFits : s.outLen.toNat ≤ s.bufBytes
  resultWritten : s.dst.writtenTo s.outLen.toNat
  /-- What the phase knows. -/
  phaseKnows : s.phaseWf

end Sys2Proof.Machine
end

