-- ==== Sys2Proof/Certificates/Slice0/Obligations.lean ====
section
/-! DEFINITION. The statements for the provers. None of them is about a program. -/

open Sys2Proof Sys2Proof.Machine

/-! ### Reset, control, status and the host interface -/

/-- R24: what the spec says the block is after reset. It says nothing of cmd, SRC, DST and the planes, which R24 leaves
unspecified. -/
def Obligations.ResetLeavesAnIdleBlockWithZeroOperands : Prop :=
  let s := State.reset
  s.op = 0 ∧ s.width = 0 ∧ s.height = 0 ∧ s.len = 0 ∧ s.readReg .ctrl = 0 ∧ s.busy = false ∧ s.done = false ∧
    s.fatal = false ∧ s.outLen = 0 ∧ s.phase = .idle

/-- A START straight after reset is rejected without SRC being read, whatever the pieces that R24 leaves unspecified hold:
an inference the spec marks as its own (R24, "runs GRAY with width 0 and is rejected as InvalidInput"). That `cmd` and the
planes keep what they hold after the command's end is the model's choice (notes/assumptions/25.md and 16.md). -/
def Obligations.StartAfterResetIsRejected : Prop :=
  ∀ (src dst : Memory) (cmd : Cmd) (bp hb vb : List Triple) (v : Word), v.getLsbD 0 = true →
    ∃ t u, hostAct (.regWrite 0 4 v)
        { State.reset with src := src, dst := dst, cmd := cmd, bp := bp, hb := hb, vb := vb } = .next t ∧
      t.fetch = .gray 0 0 0 ∧ step t = .next u ∧
      u = { State.reset with
        src := src, dst := dst, bp := bp, hb := hb, vb := vb
        cmd := { op := 0, width := 0, height := 0, len := 0 }
        done := true }

/-- R150: the reset input, whatever the block was doing. -/
def Obligations.ResetInputAlwaysGivesTheResetState : Prop :=
  (∀ s : State, ∃ t, hostAct .reset s = .next t ∧
    t.op = 0 ∧ t.width = 0 ∧ t.height = 0 ∧ t.len = 0 ∧ t.outLen = 0 ∧ t.busy = false ∧ t.done = false ∧
    t.fatal = false ∧ t.phase = .idle ∧ (s.hostQueue = [] → step t = .next t)) ∧
  (∀ s t : State, step s = .next t → s.fatal = true → t.fatal = false → s.hostQueue.head? = some .reset)

/-- What the reset input does to the rest in this model: no byte of SRC or DST has a value afterwards (the model's form of
"unspecified", notes/assumptions/6.md and 7.md), and CAP_PIXELS, the instance's number and the host's side stay (the model's choice,
notes/assumptions/18.md). -/
def Obligations.ResetInputForgetsBothBuffers : Prop :=
  ∀ s : State, ∃ t, hostAct .reset s = .next t ∧ (∀ i, t.src.read i = none ∧ t.dst.read i = none) ∧
    t.capPixels = s.capPixels ∧ t.instanceNo = s.instanceNo ∧ t.draws = s.draws ∧ t.hostQueue = s.hostQueue ∧
    t.hostReplies = s.hostReplies

/-- R15 and R156: CTRL. -/
def Obligations.StartIsAcceptedOnlyWhenNotBusyAndNotFatal : Prop :=
  (∀ s : State, hostAct (.regRead 0 4) s = .next { s with hostReplies := .reg 0 0 :: s.hostReplies }) ∧
  (∀ (s : State) (v : Word), v.getLsbD 0 = true → s.busy = false → s.fatal = false →
    hostAct (.regWrite 0 4 v) s = .next
      { s with
        cmd := { op := s.op, width := s.width, height := s.height, len := s.len }
        done := false, outLen := 0, busy := true, phase := .check }) ∧
  (∀ (s : State) (v : Word), v.getLsbD 0 = false ∨ s.busy = true ∨ s.fatal = true →
    hostAct (.regWrite 0 4 v) s = .next s) ∧
  (∀ s t : State, step s = .next t → s.busy = false → t.busy = true →
    s.fatal = false ∧ ∃ v, s.hostQueue.head? = some (.regWrite 0 4 v) ∧ v.getLsbD 0 = true)

/-- R12: no end of a command changes the operand registers, and the next START runs on them. -/
def Obligations.OperandRegistersSurviveEveryCommand : Prop :=
  ∀ (i : Instr) (s t : State), exec i s = .next t →
    t.op = s.op ∧ t.width = s.width ∧ t.height = s.height ∧ t.len = s.len ∧
    (t.fatal = false → ∀ v : Word, v.getLsbD 0 = true →
      ∃ u, hostAct (.regWrite 0 4 v) t = .next u ∧ u.busy = true ∧ u.phase = .check ∧
        u.cmd = { op := s.op, width := s.width, height := s.height, len := s.len })

/-- R11, R38: each operand register reads what was last written, at any time, BUSY = 1 too; OP's upper 30 bits read as 0
and ignore writes; and a write to one that lands (BUSY = 0) leaves everything else alone. -/
def Obligations.OperandRegistersReadBackWhatWasWritten : Prop :=
  ∀ (s : State) (v : Word),
    (s.busy = false →
      hostAct (.regWrite 0x08 4 v) s = .next { s with op := v.setWidth 2 } ∧
      hostAct (.regWrite 0x0C 4 v) s = .next { s with width := v } ∧
      hostAct (.regWrite 0x10 4 v) s = .next { s with height := v } ∧
      hostAct (.regWrite 0x14 4 v) s = .next { s with len := v }) ∧
    (hostAct (.regRead 0x08 4) { s with op := v.setWidth 2 } =
        .next { s with op := v.setWidth 2, hostReplies := .reg 0x08 (v &&& 3) :: s.hostReplies } ∧
      hostAct (.regRead 0x0C 4) { s with width := v } =
        .next { s with width := v, hostReplies := .reg 0x0C v :: s.hostReplies } ∧
      hostAct (.regRead 0x10 4) { s with height := v } =
        .next { s with height := v, hostReplies := .reg 0x10 v :: s.hostReplies } ∧
      hostAct (.regRead 0x14 4) { s with len := v } =
        .next { s with len := v, hostReplies := .reg 0x14 v :: s.hostReplies })

/-- R16, R17: STATUS and OUT_LEN are read only; STATUS has BUSY, DONE and FATAL in bits 0, 1 and 2 and zeros above. -/
def Obligations.StatusHoldsTheThreeFlagsAndIgnoresWrites : Prop :=
  ∀ (s : State) (v : Word),
    s.status.getLsbD 0 = s.busy ∧ s.status.getLsbD 1 = s.done ∧ s.status.getLsbD 2 = s.fatal ∧
    (∀ i, 3 ≤ i → s.status.getLsbD i = false) ∧
    hostAct (.regRead 0x04 4) s = .next { s with hostReplies := .reg 0x04 s.status :: s.hostReplies } ∧
    hostAct (.regRead 0x18 4) s = .next { s with hostReplies := .reg 0x18 s.outLen :: s.hostReplies } ∧
    hostAct (.regWrite 0x04 4 v) s = .next s ∧ hostAct (.regWrite 0x18 4 v) s = .next s

/-- R37: no host read changes the block; only the model's record of what was read, and of the free values drawn, moves. -/
def Obligations.HostReadsChangeNothingInTheBlock : Prop :=
  ∀ (a : HostAction) (s t : State), (∃ k n, a = .regRead k n ∨ a = .srcRead k n ∨ a = .dstRead k n) →
    hostAct a s = .next t → ∃ d r, t = { s with draws := d, hostReplies := r :: s.hostReplies }

/-- R154, R19, R38: the host's accesses to SRC and the operand registers while a command runs, and when none does: then a
read of SRC returns the byte last written. A free value is the model's form of an unspecified one (notes/assumptions/7.md;
13.md for a byte never written). -/
def Obligations.HostWritesAreDroppedWhileBusy : Prop :=
  (∀ (s : State) (i : Nat) (v : Byte), s.busy = true → i < 4 * s.capPixels →
    hostAct (.srcWrite i 1 v) s = .next s ∧
    hostAct (.srcRead i 1) s =
      .next { s with
        draws := s.draws + 1
        hostReplies := .src i (Config.freeByte s.instanceNo s.draws) :: s.hostReplies }) ∧
  (∀ (s : State) (k : Nat) (v : Word), s.busy = true → k ∈ [0x08, 0x0C, 0x10, 0x14] →
    hostAct (.regWrite k 4 v) s = .next s) ∧
  (∀ (s : State) (i : Nat), s.busy = false → i < 4 * s.capPixels →
    (∀ v : Byte, s.src.read i = some v →
      hostAct (.srcRead i 1) s = .next { s with hostReplies := .src i v :: s.hostReplies }) ∧
    (s.src.read i = none →
      hostAct (.srcRead i 1) s =
        .next { s with
          draws := s.draws + 1
          hostReplies := .src i (Config.freeByte s.instanceNo s.draws) :: s.hostReplies })) ∧
  (∀ (s : State) (i : Nat) (v : Byte), s.busy = false → i < 4 * s.capPixels →
    ∃ t, hostAct (.srcWrite i 1 v) s = .next t ∧ t.src.read i = some v ∧
      (∀ j, j ≠ i → t.src.read j = s.src.read j) ∧ t = { s with src := t.src }) ∧
  (∀ (s : State) (v : Word), s.busy = false →
    hostAct (.regWrite 0x08 4 v) s = .next { s with op := v.setWidth 2 } ∧
    hostAct (.regWrite 0x0C 4 v) s = .next { s with width := v } ∧
    hostAct (.regWrite 0x10 4 v) s = .next { s with height := v } ∧
    hostAct (.regWrite 0x14 4 v) s = .next { s with len := v })

/-- R20, R43, R155: a DST read returns the result's byte where DONE = 1 and the index is below OUT_LEN, and a free value
anywhere else (the model's form of an unspecified one, notes/assumptions/7.md); the host cannot write DST. -/
def Obligations.DstReadsReturnTheResultOrAFreeValue : Prop :=
  ∀ (s : State) (i : Nat) (v : Byte), i < 4 * s.capPixels →
    (s.done = true → i < s.outLen.toNat → s.dst.read i = some v →
      hostAct (.dstRead i 1) s = .next { s with hostReplies := .dst i v :: s.hostReplies }) ∧
    (s.done = false ∨ s.outLen.toNat ≤ i →
      hostAct (.dstRead i 1) s =
        .next { s with
          draws := s.draws + 1
          hostReplies := .dst i (Config.freeByte s.instanceNo s.draws) :: s.hostReplies }) ∧
    hostAct (.dstWrite i 1 v) s = .next s

/-- R36, U5: what the interface does not define is refused, under names of the model's choice (notes/assumptions/15.md). -/
def Obligations.UndefinedAccessesAreRefused : Prop :=
  (∀ (s : State) (k n : Nat) (v : Word), n ≠ 4 →
    hostAct (.regRead k n) s = .refused .undefinedAccessWidth ∧
    hostAct (.regWrite k n v) s = .refused .undefinedAccessWidth) ∧
  (∀ (s : State) (k : Nat) (v : Word), k ∉ [0x00, 0x04, 0x08, 0x0C, 0x10, 0x14, 0x18] →
    hostAct (.regRead k 4) s = .refused .undefinedRegister ∧
    hostAct (.regWrite k 4 v) s = .refused .undefinedRegister) ∧
  (∀ (s : State) (k n : Nat) (v : Byte), n ≠ 1 →
    hostAct (.srcRead k n) s = .refused .undefinedAccessWidth ∧
    hostAct (.srcWrite k n v) s = .refused .undefinedAccessWidth ∧
    hostAct (.dstRead k n) s = .refused .undefinedAccessWidth ∧
    hostAct (.dstWrite k n v) s = .refused .undefinedAccessWidth) ∧
  (∀ (s : State) (k : Nat) (v : Byte), 4 * s.capPixels ≤ k →
    hostAct (.srcRead k 1) s = .refused .indexOutOfRange ∧
    hostAct (.srcWrite k 1 v) s = .refused .indexOutOfRange ∧
    hostAct (.dstRead k 1) s = .refused .indexOutOfRange ∧
    hostAct (.dstWrite k 1 v) s = .refused .indexOutOfRange)

/-- R153, R20: a result stays until the next accepted START or reset; reading it does not consume it. -/
def Obligations.ResultStaysUntilTheNextStartOrReset : Prop :=
  ∀ s t : State, s.Inv → s.done = true → step s = .next t →
    (∀ a, s.hostQueue.head? = some a → a ≠ .reset ∧ ∀ v, a = .regWrite 0 4 v → v.getLsbD 0 = false) →
    t.done = true ∧ t.outLen = s.outLen ∧ ∀ i, t.dst.read i = s.dst.read i

/-! ### Validation, the codec and the arithmetic primitives -/

/-- R72 (with R70's equality): the product of the validation is the mathematical one. -/
def Obligations.ValidationUsesTheExactProduct : Prop :=
  (∀ (len b : Nat) (w h : Int), validate len w h b = true ↔ 0 < w ∧ 0 < h ∧ (len : Int) = w * h * b) ∧
  (∀ (len b : Nat) (w h : Int), 1 ≤ w → w < 2 ^ 31 → 1 ≤ h → h < 2 ^ 31 → b ≤ 4 → len < 2 ^ 32 →
    w * h * b < 2 ^ 64 ∧
    (validate len w h b = true ↔ BitVec.ofInt 64 (w * h * b) = BitVec.ofNat 64 len)) ∧
  (∀ (len b : Nat) (w h : Int), len < 2 ^ 32 → 2 ^ 32 ≤ w * h * b → validate len w h b = false) ∧
  validate 0 65536 65536 4 = false

/-- R51, R52: the four opcodes, the bytes per input pixel and the output length. -/
def Obligations.OpcodeMapSelectsTheFourCommands : Prop :=
  (∀ w h n : Word,
    decodeFields 0 w h n = .gray w.toInt h.toInt n.toNat ∧ decodeFields 1 w h n = .neg w.toInt h.toInt n.toNat ∧
    decodeFields 2 w h n = .lumagray w.toInt h.toInt n.toNat ∧ decodeFields 3 w h n = .bloom w.toInt h.toInt n.toNat) ∧
  bpp 0 = 4 ∧ bpp 1 = 4 ∧ bpp 2 = 1 ∧ bpp 3 = 4 ∧ ∀ n, outLength n = 4 * n

/-- R77: saturation. -/
def Obligations.ClampSaturatesAndNeverWraps : Prop :=
  ∀ v : Int, (v < 0 → clamp8 v = 0) ∧ (255 < v → clamp8 v = 255) ∧
    (0 ≤ v → v ≤ 255 → ((clamp8 v).toNat : Int) = v)

/-- R79, with R78's quotient: the range, the width and the monotonicity (an inference the spec marks as its own) of luma8. -/
def Obligations.LumaIsTheExactFloorAndMonotone : Prop :=
  (∀ r g b : Byte,
    299 * r.toNat + 587 * g.toNat + 114 * b.toNat ≤ 255000 ∧
    299 * r.toNat + 587 * g.toNat + 114 * b.toNat < 2 ^ 18 ∧
    (299 * r.toNat + 587 * g.toNat + 114 * b.toNat) / 1000 ≤ 255 ∧
    (luma8 r g b).toNat = (299 * r.toNat + 587 * g.toNat + 114 * b.toNat) / 1000) ∧
  (∀ r g b r' g' b' : Byte, r ≤ r' → g ≤ g' → b ≤ b' → luma8 r g b ≤ luma8 r' g' b')

/-- R73: decodePacked4. -/
def Obligations.DecodePacked4ReadsBlueGreenRedAlpha : Prop :=
  (∀ (m : Memory) (n : Nat), m.writtenTo (4 * n) →
    ∃ px, decodePacked4 m n = some px ∧ px.length = n ∧
      ∀ (i : Nat) (a r g b : Byte), i < n → m.holds i a r g b → px[i]? = some { a := a, r := r, g := g, b := b }) ∧
  decodePacked4 [(0, 0x00), (1, 0x00), (2, 0xFF), (3, 0xFF)] 1 = some [{ a := 255, r := 255, g := 0, b := 0 }]

/-- R74: encodePacked4. -/
def Obligations.EncodePacked4WritesBlueGreenRedAlpha : Prop :=
  (∀ (m : Memory) (ps : List Pixel),
    (packPixels ps).length = 4 * ps.length ∧
    (∀ (i : Nat) (p : Pixel), ps[i]? = some p → (encodePacked4 m ps).holds i p.a p.r p.g p.b) ∧
    (∀ k, 4 * ps.length ≤ k → (encodePacked4 m ps).read k = m.read k)) ∧
  packPixels [{ a := 255, r := 76, g := 76, b := 76 }] = [0x4C, 0x4C, 0x4C, 0xFF]

/-- R75 (an inference the spec marks as its own): the round trip, both ways. -/
def Obligations.Packed4RoundTrip : Prop :=
  (∀ (m : Memory) (ps : List Pixel), decodePacked4 (encodePacked4 m ps) ps.length = some ps) ∧
  (∀ (m d : Memory) (n : Nat) (px : List Pixel), decodePacked4 m n = some px →
    ∀ k, k < 4 * n → (encodePacked4 d px).read k = m.read k)

/-- R76: decodeLumaPlane. -/
def Obligations.DecodeLumaPlaneReadsOneUnsignedByteAPixel : Prop :=
  (∀ (m : Memory) (n : Nat), m.writtenTo n →
    ∃ ys, decodeLumaPlane m n = some ys ∧ ys.length = n ∧
      ∀ (i : Nat) (y : Byte), i < n → m.read i = some y → ys[i]? = some y) ∧
  (decodeLumaPlane [(0, 0x00), (1, 0x80), (2, 0xFF)] 3).map (fun ys => ys.map BitVec.toNat) = some [0, 128, 255]

/-- R32, R54: the word view of a pixel. -/
def Obligations.PixelWordIsLittleEndian : Prop :=
  ∀ p : Pixel, p.word.extractLsb' 0 8 = p.b ∧ p.word.extractLsb' 8 8 = p.g ∧ p.word.extractLsb' 16 8 = p.r ∧
    p.word.extractLsb' 24 8 = p.a ∧ p.word.toNat = fromBytesLE p.bytes

/-! ### Exceptions -/

/-- R132: InvalidInput, for every command and whatever SRC holds. The rule does not say what `cmd`, irrelevant once the
command has ended (R18, U7), holds then: CommandsKeepTheLatchedCommand gives the model's choice. -/
def Obligations.InvalidInputGivesTheEmptyResult : Prop :=
  ∀ (i : Instr) (s : State), ¬ ValidFor (bpp i.op) i.width i.height i.len →
    ∃ c, exec i s = .next { s with cmd := c, outLen := 0, busy := false, done := true, phase := .idle }

/-- R136: Fatal(Capacity). The rule does not say what `cmd` holds after it: CommandsKeepTheLatchedCommand gives the model's
choice. -/
def Obligations.CapacityFatalHaltsUntilReset : Prop :=
  (∀ (i : Instr) (s : State), ValidFor (bpp i.op) i.width i.height i.len → (s.capPixels : Int) < i.width * i.height →
    ∃ c, exec i s = .next { s with cmd := c, fatal := true, busy := false, phase := .halt }) ∧
  (∀ (i : Instr) (s t : State), i.width * i.height ≤ s.capPixels → exec i s = .next t → t.fatal = s.fatal) ∧
  (∀ (s : State) (v : Word), s.fatal = true → hostAct (.regWrite 0 4 v) s = .next s) ∧
  (∀ s t : State, step s = .next t → s.fatal = true → t.fatal = false → s.hostQueue.head? = some .reset) ∧
  (∀ s : State, s.fatal = true → ¬ s.successful)

/-- A command keeps the latched `cmd` at each of its ends. R18 calls its value irrelevant between commands and U7
unspecified: that it stays is the model's choice (notes/assumptions/25.md). -/
def Obligations.CommandsKeepTheLatchedCommand : Prop :=
  ∀ (i : Instr) (s t : State), exec i s = .next t → t.cmd = s.cmd

/-- In HALT with nothing pending for the host the step faults; with an action pending it is that action. That the fault
comes at this step is the model's choice (notes/assumptions/9.md). -/
def Obligations.HaltedBlockFaultsUnlessTheHostActs : Prop :=
  (∀ s : State, s.phase = .halt → s.hostQueue = [] → step s = .fault .halted) ∧
  (∀ (s : State) (a : HostAction) (rest : List HostAction), s.phase = .halt → s.busy = false →
    s.hostQueue = a :: rest → step s = hostAct a { s with draws := s.draws + 1, hostQueue := rest })

/-- R133 (an inference the spec marks as its own): the empty result means a rejected
command and nothing else. -/
def Obligations.EmptyResultMeansRejected : Prop :=
  ∀ (i : Instr) (s t : State), s.launched → s.capPixels ≤ Config.capPixelsMax → exec i s = .next t → t.done = true →
    (t.outLen = 0 ↔ ¬ ValidFor (bpp i.op) i.width i.height i.len) ∧ (t.outLen ≠ 0 → 4 ≤ t.outLen.toNat)

/-- U2 of 93_implementation_defined.md: a command that would read a byte the host has not written faults; of U2's two
treatments the fault is the model's choice (notes/assumptions/6.md). -/
def Obligations.UnwrittenInputFaults : Prop :=
  ∀ (i : Instr) (s : State), ValidFor (bpp i.op) i.width i.height i.len → i.width * i.height ≤ s.capPixels →
    ¬ s.src.writtenTo i.len → exec i s = .fault .srcUnwritten

/-! ### The point filters -/

/-- R90: GRAY completes, and its result. -/
def Obligations.GrayWritesTheLumaOfEveryPixel : Prop :=
  ∀ (s : State) (w h : Int) (n : Nat), ValidFor 4 w h n → w * h ≤ s.capPixels → s.capPixels ≤ Config.capPixelsMax →
    s.src.writtenTo n →
    ∃ t, exec (.gray w h n) s = .next t ∧ t.publishedFrom s (w * h) ∧
      ∀ (i : Nat) (a r g b : Byte), (i : Int) < w * h → s.src.holds i a r g b →
        ∃ l : Byte, l.toNat = (299 * r.toNat + 587 * g.toNat + 114 * b.toNat) / 1000 ∧ t.dst.holds i a l l l

/-- R91: NEG completes, and its result. -/
def Obligations.NegSubtractsEveryColourFrom255 : Prop :=
  ∀ (s : State) (w h : Int) (n : Nat), ValidFor 4 w h n → w * h ≤ s.capPixels → s.capPixels ≤ Config.capPixelsMax →
    s.src.writtenTo n →
    ∃ t, exec (.neg w h n) s = .next t ∧ t.publishedFrom s (w * h) ∧
      ∀ (i : Nat) (a r g b : Byte), (i : Int) < w * h → s.src.holds i a r g b →
        ∃ r' g' b' : Byte, r'.toNat = 255 - r.toNat ∧ g'.toNat = 255 - g.toNat ∧ b'.toNat = 255 - b.toNat ∧
          t.dst.holds i a r' g' b'

/-- R92: LUMAGRAY completes, and its result. -/
def Obligations.LumagrayWritesOpaqueGrey : Prop :=
  ∀ (s : State) (w h : Int) (n : Nat), ValidFor 1 w h n → w * h ≤ s.capPixels → s.capPixels ≤ Config.capPixelsMax →
    s.src.writtenTo n →
    ∃ t, exec (.lumagray w h n) s = .next t ∧ t.publishedFrom s (w * h) ∧
      ∀ (i : Nat) (y : Byte), (i : Int) < w * h → s.src.read i = some y → t.dst.holds i 255 y y y

/-- R93: grey output, alpha kept. -/
def Obligations.GrayOutputHasEqualChannelsAndKeepsAlpha : Prop :=
  ∀ (s t : State) (w h : Int) (n : Nat), ValidFor 4 w h n → w * h ≤ s.capPixels → exec (.gray w h n) s = .next t →
    ∀ i : Nat, (i : Int) < w * h →
      ∃ a l : Byte, s.src.read (4 * i + 3) = some a ∧ t.dst.holds i a l l l

/-- R94: NEG twice, the first result copied into SRC, gives back the input. -/
def Obligations.NegIsAnInvolution : Prop :=
  ∀ (s t s' : State) (w h : Int) (n : Nat), ValidFor 4 w h n → w * h ≤ s.capPixels → exec (.neg w h n) s = .next t →
    s'.capPixels = s.capPixels → (∀ k, k < n → s'.src.read k = t.dst.read k) →
    ∃ u, exec (.neg w h n) s' = .next u ∧ ∀ k, k < n → u.dst.read k = s.src.read k

/-- R95: opaque output. -/
def Obligations.LumagrayOutputIsOpaque : Prop :=
  ∀ (s t : State) (w h : Int) (n : Nat), ValidFor 1 w h n → w * h ≤ s.capPixels → exec (.lumagray w h n) s = .next t →
    ∀ i : Nat, (i : Int) < w * h → t.dst.read (4 * i + 3) = some 255

/-- R96 (an inference the spec marks as its own):
an output pixel of a point filter depends on the same input pixel alone, whatever the two images' shapes and
whatever the planes hold; the planes are not used. That their contents stay through the command is the model's choice
(notes/assumptions/16.md). -/
def Obligations.PointFiltersUseNoNeighbour : Prop :=
  ∀ (f : Int → Int → Nat → Instr), f = .gray ∨ f = .neg ∨ f = .lumagray →
  ∀ (s s' t t' : State) (w h w' h' : Int) (n n' : Nat),
    ValidFor (bpp (f w h n).op) w h n → w * h ≤ s.capPixels → exec (f w h n) s = .next t →
    ValidFor (bpp (f w' h' n').op) w' h' n' → w' * h' ≤ s'.capPixels → exec (f w' h' n') s' = .next t' →
    t.bp = s.bp ∧ t.hb = s.hb ∧ t.vb = s.vb ∧
    ∀ i : Nat, (i : Int) < w * h → (i : Int) < w' * h' →
      (∀ k, k < bpp (f w h n).op →
        s.src.read (bpp (f w h n).op * i + k) = s'.src.read (bpp (f w h n).op * i + k)) →
      ∀ k, k < 4 → t.dst.read (4 * i + k) = t'.dst.read (4 * i + k)

/-- The frame of GRAY, NEG and LUMAGRAY: what they leave unchanged, at each of a command's ends (R12, R14, R19, R20,
R96). That `cmd` and the planes, unspecified outside a command (R18, R21, U7), stay is the model's choice
(notes/assumptions/25.md and 16.md). -/
def Obligations.PointFilterFrame : Prop :=
  ∀ (i : Instr) (s t : State), i.op ≠ 3 → exec i s = .next t →
    s.agreesOutsideResult t ∧ t.bp = s.bp ∧ t.hb = s.hb ∧ t.vb = s.vb ∧
    (i.width * i.height ≤ s.capPixels ∨ ¬ ValidFor (bpp i.op) i.width i.height i.len → t.fatal = s.fatal) ∧
    (ValidFor (bpp i.op) i.width i.height i.len → (s.capPixels : Int) < i.width * i.height →
      t.done = s.done ∧ t.outLen = s.outLen) ∧
    ∀ a : Nat, ¬ (ValidFor (bpp i.op) i.width i.height i.len ∧ i.width * i.height ≤ s.capPixels ∧
      (a : Int) < 4 * (i.width * i.height)) → t.dst.read a = s.dst.read a

/-! ### The box blur -/

/-- R101: the tap positions. -/
def Obligations.TapsReplicateTheEdge : Prop :=
  (∀ (size x : Nat) (k : Int), 0 < size → tap size x k = edge size x k ∧ tap size x k < size) ∧
  (∀ v lo hi : Int, clampi v lo hi = if v < lo then lo else if v > hi then hi else v) ∧
  (∀ k ∈ [-2, -1, 0, 1, (2 : Int)], tap 1 0 k = 0) ∧
  [-2, -1, 0, 1, (2 : Int)].map (tap 2 0) = [0, 0, 0, 1, 1] ∧
  [-2, -1, 0, 1, (2 : Int)].map (tap 2 1) = [0, 0, 1, 1, 1] ∧
  (∀ size x : Nat, 5 ≤ size → 2 ≤ x → x + 3 ≤ size →
    [-2, -1, 0, 1, (2 : Int)].map (tap size x) = [x - 2, x - 1, x, x + 1, x + 2])

/-- R102, R103, R105: each pass gives every sample as the truncated fifth of its five taps, in its row, in its column. -/
def Obligations.BlurPassesTakeTheTruncatedMeanOfFiveTaps : Prop :=
  ∀ (w h : Nat) (p : List Triple) (ch : Triple → Byte), IsChannel ch →
    (hblur w h p).length = w * h ∧ (vblur w h p).length = w * h ∧
    ∀ x y, x < w → y < h →
      (ch (planeAt (hblur w h p) (y * w + x))).toNat = rowTapSum ch p w x y / 5 ∧
      (ch (planeAt (vblur w h p) (y * w + x))).toNat = columnTapSum ch p w h x y / 5 ∧
      rowTapSum ch p w x y ≤ 1275 ∧ columnTapSum ch p w h x y ≤ 1275

/-- R104: horizontal then vertical, in a BLOOM that completes too; the order and the two truncations matter (the two
examples are inferences the spec marks as its own). The clause on what HB and VB hold after a BLOOM has ended is the model's
choice: R21, R161 and U7 leave the planes unspecified there (notes/assumptions/16.md). -/
def Obligations.BlurIsHorizontalThenVertical : Prop :=
  (∀ (w h : Nat) (p : List Triple), blur2 w h p = vblur w h (hblur w h p)) ∧
  (∀ (s t : State) (w h : Int) (n : Nat), ValidFor 4 w h n → w * h ≤ s.capPixels → exec (.bloom w h n) s = .next t →
    t.hb = hblur w.toNat h.toNat t.bp ∧ t.vb = vblur w.toNat h.toNat t.hb) ∧
  blur2 2 2 (greyPlane [0, 0, 1, 3]) = greyPlane [0, 0, 0, 1] ∧
  hblur 2 2 (vblur 2 2 (greyPlane [0, 0, 1, 3])) = greyPlane [0, 0, 0, 0] ∧
  blur2 2 2 (greyPlane [0, 0, 0, 3]) = greyPlane [0, 0, 0, 0] ∧
  [(0, 0), (1, 0), (0, 1), (1, 1)].map (fun c => boxTapSum Triple.r (greyPlane [0, 0, 0, 3]) 2 2 c.1 c.2 / 25) =
    [0, 0, 0, 1]

/-- R106: the clamp of the two passes never changes its argument. -/
def Obligations.BlurClampIsRedundant : Prop :=
  ∀ t0 t1 t2 t3 t4 : Byte,
    (t0.toNat + t1.toNat + t2.toNat + t3.toNat + t4.toNat) / 5 ≤ 255 ∧
    (clamp8 (((t0.toNat + t1.toNat + t2.toNat + t3.toNat + t4.toNat) / 5 : Nat) : Int)).toNat =
      (t0.toNat + t1.toNat + t2.toNat + t3.toNat + t4.toNat) / 5 ∧
    (blurChannel t0 t1 t2 t3 t4).toNat = (t0.toNat + t1.toNat + t2.toNat + t3.toNat + t4.toNat) / 5

/-- R108: the useful consequences (an inference the spec marks as its own). -/
def Obligations.BlurKeepsConstantsAndOrder : Prop :=
  (∀ w h : Nat, blur2 w h (greyPlane (List.replicate (w * h) 0)) = greyPlane (List.replicate (w * h) 0)) ∧
  (∀ (w h : Nat) (v : Triple), hblur w h (List.replicate (w * h) v) = List.replicate (w * h) v ∧
    vblur w h (List.replicate (w * h) v) = List.replicate (w * h) v ∧
    blur2 w h (List.replicate (w * h) v) = List.replicate (w * h) v) ∧
  (∀ (w h : Nat) (p q : List Triple), PlaneLe p q →
    PlaneLe (hblur w h p) (hblur w h q) ∧ PlaneLe (vblur w h p) (vblur w h q)) ∧
  (∀ v : Triple, blur2 1 1 [v] = [v])

/-! ### BLOOM -/

/-- R116: the threshold against the unrounded sum (an inference the spec marks as its own). -/
def Obligations.BrightMeansWeightedSumAtLeast181000 : Prop :=
  ∀ p : Pixel,
    (180 < (luma8 p.r p.g p.b).toNat ↔ 181000 ≤ 299 * p.r.toNat + 587 * p.g.toNat + 114 * p.b.toNat) ∧
    brightPixel p = if 181000 ≤ 299 * p.r.toNat + 587 * p.g.toNat + 114 * p.b.toNat
      then { r := p.r, g := p.g, b := p.b } else { r := 0, g := 0, b := 0 }

/-- R119 with R115, R102, R103, R118: BLOOM completes, its result, and what its three planes hold at its end. Completion and
the result are the spec's. The clauses on BP, HB and VB are the model's choice: R21, R161 and U7 leave the planes unspecified
once the command has ended, and the model keeps each stage's output (notes/assumptions/16.md). -/
def Obligations.BloomRunsItsFourStages : Prop :=
  ∀ (s : State) (w h : Int) (n : Nat), ValidFor 4 w h n → w * h ≤ s.capPixels → s.capPixels ≤ Config.capPixelsMax →
    s.src.writtenTo n →
    ∃ t, exec (.bloom w h n) s = .next t ∧ t.publishedFrom s (w * h) ∧
      (t.bp.length : Int) = w * h ∧ (t.hb.length : Int) = w * h ∧ (t.vb.length : Int) = w * h ∧
      (∀ (i : Nat) (a r g b : Byte), (i : Int) < w * h → s.src.holds i a r g b →
        t.bp[i]? = some (if 180 < (299 * r.toNat + 587 * g.toNat + 114 * b.toNat) / 1000
          then { r := r, g := g, b := b } else { r := 0, g := 0, b := 0 })) ∧
      (∀ (x y : Nat) (ch : Triple → Byte), IsChannel ch → (x : Int) < w → (y : Int) < h →
        (ch (planeAt t.hb (y * w.toNat + x))).toNat = rowTapSum ch t.bp w.toNat x y / 5 ∧
        (ch (planeAt t.vb (y * w.toNat + x))).toNat = columnTapSum ch t.hb w.toNat h.toNat x y / 5) ∧
      (∀ (i : Nat) (a r g b : Byte) (v : Triple), (i : Int) < w * h → s.src.holds i a r g b → t.vb[i]? = some v →
        ∃ r' g' b' : Byte, r'.toNat = min 255 (r.toNat + v.r.toNat) ∧ g'.toNat = min 255 (g.toNat + v.g.toNat) ∧
          b'.toNat = min 255 (b.toNat + v.b.toNat) ∧ t.dst.holds i a r' g' b')

/-- The frame of BLOOM (R12, R14, R19, R20, R21): the planes change only when the command runs. That `cmd`, and the planes
of a command that does not run, stay although they are unspecified outside a command (R18, R21, U7) is the model's choice
(notes/assumptions/25.md and 16.md). -/
def Obligations.BloomFrame : Prop :=
  ∀ (s t : State) (w h : Int) (n : Nat), exec (.bloom w h n) s = .next t →
    s.agreesOutsideResult t ∧
    (w * h ≤ s.capPixels ∨ ¬ ValidFor 4 w h n → t.fatal = s.fatal) ∧
    (ValidFor 4 w h n → (s.capPixels : Int) < w * h → t.done = s.done ∧ t.outLen = s.outLen) ∧
    (¬ (ValidFor 4 w h n ∧ w * h ≤ s.capPixels) → t.bp = s.bp ∧ t.hb = s.hb ∧ t.vb = s.vb) ∧
    ∀ a : Nat, ¬ (ValidFor 4 w h n ∧ w * h ≤ s.capPixels ∧ (a : Int) < 4 * (w * h)) → t.dst.read a = s.dst.read a

/-- R121: a black image is a fixed point, and so is every image without a bright pixel (an inference the spec marks as its own). -/
def Obligations.BloomKeepsImagesWithoutBrightPixels : Prop :=
  (∀ (s : State) (w h : Int) (n : Nat), ValidFor 4 w h n → w * h ≤ s.capPixels → (∀ k, k < n → s.src.read k = some 0) →
    ∃ t, exec (.bloom w h n) s = .next t ∧ ∀ k, k < n → t.dst.read k = some 0) ∧
  (∀ (s : State) (w h : Int) (n : Nat), ValidFor 4 w h n → w * h ≤ s.capPixels → s.src.writtenTo n →
    (∀ (i : Nat) (a r g b : Byte), (i : Int) < w * h → s.src.holds i a r g b → (luma8 r g b).toNat ≤ 180) →
    ∃ t, exec (.bloom w h n) s = .next t ∧ ∀ k, k < n → t.dst.read k = s.src.read k)

/-- R122: the 1×1 image. -/
def Obligations.BloomOfASinglePixelDoublesABrightOne : Prop :=
  ∀ (s : State) (a r g b : Byte), 1 ≤ s.capPixels → s.src.holds 0 a r g b →
    ∃ t, exec (.bloom 1 1 4) s = .next t ∧
      (180 < (luma8 r g b).toNat →
        t.dst.holds 0 a (clamp8 (2 * r.toNat)) (clamp8 (2 * g.toNat)) (clamp8 (2 * b.toNat))) ∧
      ((luma8 r g b).toNat ≤ 180 → t.dst.holds 0 a r g b)

/-- R123: alpha kept, no colour channel lowered (an inference the spec marks as its own); not
idempotent in general. -/
def Obligations.BloomKeepsAlphaAndNeverDarkens : Prop :=
  (∀ (s t : State) (w h : Int) (n : Nat), ValidFor 4 w h n → w * h ≤ s.capPixels → exec (.bloom w h n) s = .next t →
    ∀ i : Nat, (i : Int) < w * h → ∃ a r g b r' g' b' : Byte, s.src.holds i a r g b ∧ t.dst.holds i a r' g' b' ∧
      r ≤ r' ∧ g ≤ g' ∧ b ≤ b') ∧
  (∃ (s t u : State) (g : Byte), exec (.bloom 1 1 4) s = .next t ∧ exec (.bloom 1 1 4) { t with src := t.dst } = .next u ∧
    s.src.read 0 = some g ∧ t.dst.read 0 = some (g + g) ∧ u.dst.read 0 = some (g + g + (g + g)) ∧ g ≠ 0)

/-! ### The machine as a whole -/

/-- R22: the result is a function of the command and of SRC[0 .. len) alone. -/
def Obligations.ResultDependsOnCommandAndInputOnly : Prop :=
  ∀ (i : Instr) (s s' t : State), s.launched → s'.launched → s'.capPixels = s.capPixels →
    (∀ k, k < i.len → s'.src.read k = s.src.read k) → exec i s = .next t →
    ∃ t', exec i s' = .next t' ∧ t'.busy = t.busy ∧ t'.done = t.done ∧ t'.fatal = t.fatal ∧ t'.phase = t.phase ∧
      t'.outLen = t.outLen ∧ ∀ k, k < t.outLen.toNat → t'.dst.read k = t.dst.read k

/-- R161: exactly one of the three ends. -/
def Obligations.EveryCommandEndsInExactlyOneOfThreeWays : Prop :=
  ∀ (i : Instr) (s : State), s.launched → s.capPixels ≤ Config.capPixelsMax → s.src.writtenTo i.len →
    ∃ t, exec i s = .next t ∧
      (ValidFor (bpp i.op) i.width i.height i.len → i.width * i.height ≤ s.capPixels →
        t.busy = false ∧ t.done = true ∧ t.fatal = false ∧ t.phase = .idle ∧
          (t.outLen.toNat : Int) = 4 * (i.width * i.height)) ∧
      (¬ ValidFor (bpp i.op) i.width i.height i.len →
        t.busy = false ∧ t.done = true ∧ t.fatal = false ∧ t.phase = .idle ∧ t.outLen = 0 ∧ t.dst = s.dst) ∧
      (ValidFor (bpp i.op) i.width i.height i.len → (s.capPixels : Int) < i.width * i.height →
        t.busy = false ∧ t.done = false ∧ t.fatal = true ∧ t.phase = .halt ∧ t.outLen = 0 ∧ t.dst = s.dst)

/-- R13, R44, R158: the walk of the phases one at a time ends where the atomic command does, which is the form the model
chose (notes/assumptions/1.md). -/
def Obligations.PhaseWalkReachesTheCommandsEnd : Prop :=
  ∀ s : State, s.phase = .check → ∃ k, 1 ≤ k ∧ k ≤ 5 ∧ ticks k s = exec s.fetch s

/-- R158: BUSY does not stay 1 for ever, whatever defined accesses the host makes meanwhile. The bound by the host's pending
actions is the model's choice (notes/assumptions/10.md). -/
def Obligations.BusyFallsWithinTheHostsActions : Prop :=
  ∀ s : State, s.Inv → s.phase = .check → s.src.writtenTo s.fetch.len →
    (∀ a ∈ s.hostQueue, a.defined s.bufBytes) →
    ∃ k t, k ≤ s.hostQueue.length + 1 ∧ Host.Core.run core k s = .next t ∧ State.busy t = false

/-- R48, R141: a step of one instance leaves every other instance as it was. -/
def Obligations.InstancesShareNothing : Prop :=
  ∀ (k : Nat) (is is' : Instances), stepInstance k is = some is' →
    is'.length = is.length ∧ (∀ j, j ≠ k → is'[j]? = is[j]?) ∧
      ∃ s t, is[k]? = some s ∧ is'[k]? = some t ∧ step s = .next t

/-- Each instance has a number of its own after reset, a step keeps it, and the free values and the choices of who moves
next are drawn at that number, so that nothing relates the free values and the durations of two instances (U3, U4, R158,
R48). The number is the model's choice (notes/assumptions/24.md), and so is the form of a draw (7.md and 10.md). -/
def Obligations.InstancesDrawFromSequencesOfTheirOwn : Prop :=
  (∀ k, k < Config.nInst → ∃ s, Instances.reset[k]? = some s ∧ s.instanceNo = k ∧ s = { State.reset with instanceNo := k }) ∧
  Instances.reset.length = Config.nInst ∧
  (∀ s t : State, step s = .next t → t.instanceNo = s.instanceNo) ∧
  (∀ s : State, s.draw = (Config.freeByte s.instanceNo s.draws, { s with draws := s.draws + 1 })) ∧
  (∀ (s : State) (a : HostAction), s.busy = true → a ≠ .wait →
    engineFirst s a = Config.engineTurn s.instanceNo s.draws)

/-- A step runs the decoded command (R18, R89), and what the step adds around exec: the host's actions, taken when the
block is not busy, dropped or answered when it is, as long as the free choice lets them go first. The free choice
(notes/assumptions/10.md) and withFetchWord (notes/assumptions/3.md) are the model's. -/
def Obligations.StepRunsTheDecodedCommand : Prop :=
  (∀ s : State, s.phase = .check → s.hostQueue = [] → step s = exec (decodeWord s.cmd.word) s) ∧
  (∀ (s : State) (rest : List HostAction), s.phase = .check → s.busy = true → s.hostQueue = .wait :: rest →
    step s = exec (decodeWord s.cmd.word) { s with draws := s.draws + 1 }) ∧
  (∀ (s : State) (a : HostAction) (rest : List HostAction), s.phase = .check → s.busy = true → a ≠ .wait →
    s.hostQueue = a :: rest →
    step s = if Config.engineTurn s.instanceNo s.draws then exec (decodeWord s.cmd.word) { s with draws := s.draws + 1 }
      else hostAct a { s with draws := s.draws + 1, hostQueue := rest }) ∧
  (∀ (s : State) (a : HostAction) (rest : List HostAction), s.busy = false → s.hostQueue = a :: rest →
    step s = hostAct a { s with draws := s.draws + 1, hostQueue := rest }) ∧
  (∀ s : State, s.phase = .idle → s.hostQueue = [] → step s = .next s) ∧
  (∀ (s : State) (nbits w : Nat),
    step (s.withFetchWord nbits w) = exec (decodeWord (BitVec.ofNat 98 (w % 2 ^ nbits))) (s.withFetchWord nbits w))

/-- R50, R53: decoding the bytes of a well-formed command's word gives the command back, with every operand at every
value, whatever bytes follow. The 13 bytes are the model's choice (notes/assumptions/2.md). -/
def Obligations.DecodeOfEncodeIsTheCommand : Prop :=
  ∀ (i : Instr) (rest : List Byte), WellFormed i → decode (encodeBytes i ++ rest) = .ok (i, rest)

/-- R51, R57: every 98-bit word is the word of exactly one well-formed command. -/
def Obligations.EveryWordIsAWellFormedCommand : Prop :=
  ∀ w : CmdWord, WellFormed (decodeWord w) ∧ encode (decodeWord w) = w ∧
    ∀ i, WellFormed i → encode i = w → i = decodeWord w

/-- The command words of programs P1, P4 and P5 of 95_test_vectors.md, one per command, and P5's first. -/
def Obligations.SampleWordsDecodeAsTheSpecSays : Prop :=
  decodeTableWord 98 0x0000000400000000800000008 = some (.gray 2 2 16) ∧
  decodeTableWord 98 0x000000043FFFFFFF3FFFFFFFD = some (.neg (-1) (-4) 16) ∧
  decodeTableWord 98 0x00000000C000000040000000E = some (.lumagray 3 1 3) ∧
  decodeTableWord 98 0x0000000900000000C0000000F = some (.bloom 3 3 36) ∧
  decodeTableWord 98 0 = some (.gray 0 0 0)

/-- The invariant holds after reset. -/
def Obligations.ResetMeetsTheInvariant : Prop := State.reset.Inv

/-- The invariant (R13, R14, R17, R19, R20, R43, R44, R57): every step keeps it. -/
def Obligations.EveryStepKeepsTheInvariant : Prop :=
  ∀ s t : State, s.Inv → step s = .next t → t.Inv
end

