-- ==== Sys2Proof/Laws/Memory.lean ====
section
/-! SUPPORT. The laws of the byte buffers: read after write, the canonical form kept, indices bounded; and of allSome. -/

namespace Sys2Proof.Machine

theorem Memory.read_write (m : Memory) (a k : Nat) (v : Byte) :
    (m.write a v).read k = if k = a then some v else m.read k := by
  induction m with
  | nil => simp only [Memory.write, Memory.read, eq_comm]
  | cons c rest ih =>
    simp only [Memory.write]
    split
    · simp only [Memory.read, eq_comm]
    · split
      · next h => subst h; simp only [Memory.read]; grind
      · simp only [Memory.read, ih]; grind

@[simp] theorem Memory.read_write_same (m : Memory) (a : Nat) (v : Byte) : (m.write a v).read a = some v := by
  simp [Memory.read_write]

theorem Memory.read_write_other (m : Memory) {a k : Nat} (v : Byte) (h : k ≠ a) : (m.write a v).read k = m.read k := by
  simp [Memory.read_write, h]

/-- A cell after a write is the cell written or one that was there. -/
theorem Memory.mem_write {m : Memory} {a : Nat} {v : Byte} {c : Host.Cell} (h : c ∈ m.write a v) :
    c = (a, v) ∨ c ∈ m := by
  induction m with
  | nil => simpa [Memory.write] using h
  | cons d rest ih =>
    simp only [Memory.write] at h
    split at h
    · simpa using h
    · split at h
      · rcases List.mem_cons.1 h with h | h
        · exact .inl h
        · exact .inr (List.mem_cons_of_mem _ h)
      · rcases List.mem_cons.1 h with h | h
        · exact .inr (h ▸ List.mem_cons_self)
        · exact (ih h).imp id (List.mem_cons_of_mem _)

theorem Memory.write_wf {m : Memory} (h : m.wf) (a : Nat) (v : Byte) : (m.write a v).wf := by
  induction m with
  | nil => simp [Memory.write]
  | cons d rest ih =>
    obtain ⟨hd, hrest⟩ := List.pairwise_cons.1 h
    simp only [Memory.write]
    split
    · next hlt => exact List.pairwise_cons.2 ⟨by grind, h⟩
    · split
      · next heq => exact List.pairwise_cons.2 ⟨by grind, hrest⟩
      · refine List.pairwise_cons.2 ⟨fun c hc => ?_, ih hrest⟩
        rcases Memory.mem_write hc with rfl | hc
        · simp only; omega
        · exact hd c hc

theorem Memory.write_below {m : Memory} {bound a : Nat} (h : ∀ c ∈ m, c.1 < bound) (ha : a < bound) (v : Byte) :
    ∀ c ∈ m.write a v, c.1 < bound := fun c hc => by
  rcases Memory.mem_write hc with rfl | hc
  · exact ha
  · exact h c hc

theorem Memory.writeBytes_wf {m : Memory} (h : m.wf) (a : Nat) (vs : List Byte) : (m.writeBytes a vs).wf := by
  induction vs generalizing m a with
  | nil => exact h
  | cons v vs ih => exact ih (Memory.write_wf h a v) (a + 1)

theorem Memory.writeBytes_below {m : Memory} {bound : Nat} (h : ∀ c ∈ m, c.1 < bound) {a : Nat} {vs : List Byte}
    (ha : a + vs.length ≤ bound) : ∀ c ∈ m.writeBytes a vs, c.1 < bound := by
  induction vs generalizing m a with
  | nil => exact h
  | cons v vs ih =>
    simp only [List.length_cons] at ha
    exact ih (Memory.write_below h (by omega) v) (by omega)

/-- What a byte reads as after a sequence has been written: the sequence's byte inside it, the old byte outside. -/
theorem Memory.read_writeBytes (m : Memory) (a : Nat) (vs : List Byte) (k : Nat) :
    (m.writeBytes a vs).read k = if a ≤ k ∧ k < a + vs.length then vs[k - a]? else m.read k := by
  induction vs generalizing m a with
  | nil => simp [Memory.writeBytes]
  | cons v vs ih =>
    simp only [Memory.writeBytes, ih, Memory.read_write, List.length_cons]
    rcases Nat.lt_trichotomy k a with h | rfl | h
    · rw [if_neg (by omega), if_neg (by omega), if_neg (by omega)]
    · rw [if_neg (by omega), if_pos rfl, if_pos (by omega)]; simp
    · have hk : k - a = (k - (a + 1)) + 1 := by omega
      rw [hk, List.getElem?_cons_succ]
      split <;> split <;> first | rfl | omega | (rw [if_neg (by omega)])

/-- `allSome` answers exactly the values when there are all of them. -/
theorem allSome_eq_some {α : Type} {l : List (Option α)} {r : List α} : allSome l = some r ↔ l = r.map some := by
  induction l generalizing r with
  | nil => cases r <;> simp [allSome]
  | cons o rest ih =>
    cases o with
    | none => cases r <;> simp [allSome]
    | some v =>
      cases r with
      | nil => simp [allSome]
      | cons w ws => simp [allSome, ih, and_comm]

/-- `allSome` fails exactly when a value is missing. -/
theorem allSome_eq_none {α : Type} {l : List (Option α)} : allSome l = none ↔ none ∈ l := by
  induction l with
  | nil => simp [allSome]
  | cons o rest ih => cases o <;> simp [allSome, ih]

/-- The range form of `allSome_eq_some`: the list is the function's values in order. -/
theorem allSome_range_eq_some {α : Type} {f : Nat → Option α} {n : Nat} {r : List α} :
    allSome ((List.range n).map f) = some r ↔ r.length = n ∧ ∀ i < n, f i = r[i]? := by
  rw [allSome_eq_some]
  constructor
  · intro h
    have hl : r.length = n := by simpa using (congrArg List.length h).symm
    refine ⟨hl, fun i hi => ?_⟩
    have := congrArg (fun l => l[i]?) h
    simpa [hi, hl, List.getElem?_map] using this
  · rintro ⟨hl, h⟩
    apply List.ext_getElem (by simp [hl])
    intro i h1 h2
    simp only [List.length_map, List.length_range] at h1
    simp [h i h1, hl, h1]

end Sys2Proof.Machine
end

