-- ==== Sys2Proof/Laws/Codec.lean ====
section
/-! SUPPORT. The laws of the codec, the checks and the arithmetic primitives: one lemma each that says what the function
answers. -/

namespace Sys2Proof.Machine

/-! ### Validation -/

theorem validate_iff {len bytesPerPixel : Nat} {width height : Int} :
    validate len width height bytesPerPixel = true ↔
      0 < width ∧ 0 < height ∧ (len : Int) = width * height * bytesPerPixel := by
  simp [validate, and_assoc]

theorem checkCommand_eq_none {len b cap : Nat} {w h : Int} :
    checkCommand len w h b cap = none ↔ validate len w h b = true ∧ w * h ≤ cap := by
  unfold checkCommand
  split <;> simp_all

theorem checkCommand_eq_capacity {len b cap : Nat} {w h : Int} :
    checkCommand len w h b cap = some .capacity ↔ validate len w h b = true ∧ (cap : Int) < w * h := by
  unfold checkCommand
  split <;> simp_all

theorem checkCommand_eq_invalidInput {len b cap : Nat} {w h : Int} :
    checkCommand len w h b cap = some .invalidInput ↔ validate len w h b = false := by
  unfold checkCommand
  split
  · split <;> simp_all
  · simp_all

/-! ### Arithmetic -/

theorem clamp8_of_nat_le {n : Nat} (h : n ≤ 255) : (clamp8 (n : Int)).toNat = n := by
  unfold clamp8 chMin chMax
  rw [if_neg (by omega), if_neg (by omega)]
  simp; omega

theorem luma8_toNat (r g b : Byte) :
    (luma8 r g b).toNat = (299 * r.toNat + 587 * g.toNat + 114 * b.toNat) / 1000 := by
  have hr := r.isLt; have hg := g.isLt; have hb := b.isLt
  simp only [luma8, lumaWR, lumaWG, lumaWB, lumaDenominator, BitVec.toNat_ofNat]
  omega

/-! ### Packed4 -/

theorem pixelAt_eq_some {m : Memory} {i : Nat} {p : Pixel} :
    pixelAt m i = some p ↔
      m.read (4 * i) = some p.b ∧ m.read (4 * i + 1) = some p.g ∧ m.read (4 * i + 2) = some p.r ∧
        m.read (4 * i + 3) = some p.a := by
  unfold pixelAt
  cases p
  split <;> grind

theorem decodePacked4_eq_some {m : Memory} {n : Nat} {px : List Pixel} :
    decodePacked4 m n = some px ↔ px.length = n ∧ ∀ i < n, pixelAt m i = px[i]? := allSome_range_eq_some

theorem decodeLumaPlane_eq_some {m : Memory} {n : Nat} {ys : List Byte} :
    decodeLumaPlane m n = some ys ↔ ys.length = n ∧ ∀ i < n, m.read i = ys[i]? := allSome_range_eq_some

/-- A buffer whose first 4n bytes are written decodes. -/
theorem decodePacked4_isSome {m : Memory} {n : Nat} (h : ∀ i < 4 * n, (m.read i).isSome = true) :
    ∃ px, decodePacked4 m n = some px := by
  apply Option.ne_none_iff_exists'.1
  rw [decodePacked4, Ne, allSome_eq_none]
  simp only [List.mem_map, List.mem_range, not_exists, not_and]
  intro i hi hp
  obtain ⟨b, hb⟩ := Option.isSome_iff_exists.1 (h (4 * i) (by omega))
  obtain ⟨g, hg⟩ := Option.isSome_iff_exists.1 (h (4 * i + 1) (by omega))
  obtain ⟨r, hr⟩ := Option.isSome_iff_exists.1 (h (4 * i + 2) (by omega))
  obtain ⟨a, ha⟩ := Option.isSome_iff_exists.1 (h (4 * i + 3) (by omega))
  simp [pixelAt, hb, hg, hr, ha] at hp

/-- A buffer whose first n bytes are written is a luma plane. -/
theorem decodeLumaPlane_isSome {m : Memory} {n : Nat} (h : ∀ i < n, (m.read i).isSome = true) :
    ∃ ys, decodeLumaPlane m n = some ys := by
  apply Option.ne_none_iff_exists'.1
  rw [decodeLumaPlane, Ne, allSome_eq_none]
  simp only [List.mem_map, List.mem_range, not_exists, not_and]
  intro i hi hp
  have := h i hi
  simp [hp] at this

@[simp] theorem packPixels_length (ps : List Pixel) : (packPixels ps).length = 4 * ps.length := by
  induction ps with
  | nil => rfl
  | cons p ps ih => simp only [packPixels, List.flatMap_cons, List.length_append, List.length_cons] at *
                    rw [ih]; simp [Pixel.bytes]; omega

/-- The four bytes of the `i`-th pixel of a packed sequence. -/
theorem packPixels_getElem? (ps : List Pixel) (i : Nat) :
    (packPixels ps)[4 * i]? = ps[i]?.map Pixel.b ∧ (packPixels ps)[4 * i + 1]? = ps[i]?.map Pixel.g ∧
      (packPixels ps)[4 * i + 2]? = ps[i]?.map Pixel.r ∧ (packPixels ps)[4 * i + 3]? = ps[i]?.map Pixel.a := by
  induction ps generalizing i with
  | nil => simp [packPixels]
  | cons p ps ih =>
    cases i with
    | zero => simp [packPixels, Pixel.bytes]
    | succ i =>
      have h := ih i
      simp only [packPixels, List.flatMap_cons, Pixel.bytes, List.cons_append, List.nil_append] at h ⊢
      have e : 4 * (i + 1) = 4 * i + 1 + 1 + 1 + 1 := by omega
      simpa [e] using h

/-- A byte beyond the encoded pixels is unchanged. -/
theorem encodePacked4_read_beyond (m : Memory) (ps : List Pixel) {k : Nat} (h : 4 * ps.length ≤ k) :
    (encodePacked4 m ps).read k = m.read k := by
  rw [encodePacked4, Memory.read_writeBytes, if_neg (by simp; omega)]

/-- A byte inside the encoded pixels is the byte of the packed sequence. -/
theorem encodePacked4_read_inside (m : Memory) (ps : List Pixel) {k : Nat} (h : k < 4 * ps.length) :
    (encodePacked4 m ps).read k = (packPixels ps)[k]? := by
  rw [encodePacked4, Memory.read_writeBytes, if_pos (by simp; omega)]
  simp

/-- The four bytes of the `i`-th encoded pixel. -/
theorem encodePacked4_pixel (m : Memory) {ps : List Pixel} {i : Nat} {p : Pixel} (h : ps[i]? = some p) :
    pixelAt (encodePacked4 m ps) i = some p := by
  have hi : i < ps.length := (List.getElem?_eq_some_iff.1 h).1
  rw [pixelAt_eq_some]
  have hb := packPixels_getElem? ps i
  rw [h] at hb
  rw [encodePacked4_read_inside _ _ (by omega), encodePacked4_read_inside _ _ (by omega),
    encodePacked4_read_inside _ _ (by omega), encodePacked4_read_inside _ _ (by omega)]
  exact hb

theorem encodePacked4_wf {m : Memory} (h : m.wf) (ps : List Pixel) : (encodePacked4 m ps).wf :=
  Memory.writeBytes_wf h 0 _

theorem encodePacked4_below {m : Memory} {bound : Nat} (h : ∀ c ∈ m, c.1 < bound) {ps : List Pixel}
    (hp : 4 * ps.length ≤ bound) : ∀ c ∈ encodePacked4 m ps, c.1 < bound :=
  Memory.writeBytes_below h (by simpa using hp)

end Sys2Proof.Machine
end

