-- ==== Sys2Proof/Laws/Blur.lean ====
section
/-! SUPPORT. The laws of the box blur: its taps stay inside the image, a channel is the truncated mean of five taps, and
each pass gives every element of its output. -/

namespace Sys2Proof.Machine

/-- A tap is a valid coordinate (R101). -/
theorem tap_lt {size x : Nat} (h : 0 < size) (k : Int) : tap size x k < size := by
  unfold tap clampi
  split
  · simpa using h
  · split <;> omega

/-- A channel after one pass: the sum of the five taps divided by five, truncated; the clamp changes nothing (R106). -/
theorem blurChannel_toNat (t0 t1 t2 t3 t4 : Byte) :
    (blurChannel t0 t1 t2 t3 t4).toNat = (t0.toNat + t1.toNat + t2.toNat + t3.toNat + t4.toNat) / 5 := by
  have h0 := t0.isLt; have h1 := t1.isLt; have h2 := t2.isLt; have h3 := t3.isLt; have h4 := t4.isLt
  rw [blurChannel, clamp8_of_nat_le (by simp only [blurDivisor]; omega), blurDivisor]

@[simp] theorem hblur_length (w h : Nat) (p : List Triple) : (hblur w h p).length = w * h := by simp [hblur]

@[simp] theorem vblur_length (w h : Nat) (p : List Triple) : (vblur w h p).length = w * h := by simp [vblur]

theorem pixelIndex_lt {w h x y : Nat} (hx : x < w) (hy : y < h) : pixelIndex w x y < w * h := by
  have : y * w + x < (y + 1) * w := by rw [Nat.succ_mul]; omega
  exact Nat.lt_of_lt_of_le this (by rw [Nat.mul_comm w h]; exact Nat.mul_le_mul_right w hy)

theorem pixelIndex_mod {w x : Nat} (y : Nat) (hx : x < w) : pixelIndex w x y % w = x := by
  rw [pixelIndex, Nat.mul_add_mod', Nat.mod_eq_of_lt hx]

theorem pixelIndex_div {w x : Nat} (y : Nat) (hx : x < w) : pixelIndex w x y / w = y := by
  rw [pixelIndex, Nat.mul_comm, Nat.mul_add_div (by omega), Nat.div_eq_of_lt hx, Nat.add_zero]

/-- Every pixel index below `w × h` is some column's and row's. -/
theorem pixelIndex_cover {w h i : Nat} (hi : i < w * h) : i % w < w ∧ i / w < h ∧ pixelIndex w (i % w) (i / w) = i := by
  have hw : 0 < w := Nat.pos_of_ne_zero (by rintro rfl; simp at hi)
  exact ⟨Nat.mod_lt _ hw, Nat.div_lt_of_lt_mul hi, by rw [pixelIndex, Nat.mul_comm]; exact Nat.div_add_mod i w⟩

/-- `HB[x, y]` (R102). -/
theorem planeAt_hblur {w h x y : Nat} (p : List Triple) (hx : x < w) (hy : y < h) :
    planeAt (hblur w h p) (pixelIndex w x y) = hblurAt w p x y := by
  have hi := pixelIndex_lt hx hy
  simp [planeAt, hblur, List.getD, hi, pixelIndex_mod y hx, pixelIndex_div y hx]

/-- `VB[x, y]` (R103). -/
theorem planeAt_vblur {w h x y : Nat} (p : List Triple) (hx : x < w) (hy : y < h) :
    planeAt (vblur w h p) (pixelIndex w x y) = vblurAt w h p x y := by
  have hi := pixelIndex_lt hx hy
  simp [planeAt, vblur, List.getD, hi, pixelIndex_mod y hx, pixelIndex_div y hx]

/-- A bright pixel keeps its channels in BP (R115). -/
theorem brightPixel_of_bright {p : Pixel} (h : 180 < (luma8 p.r p.g p.b).toNat) :
    brightPixel p = { r := p.r, g := p.g, b := p.b } := by
  unfold brightPixel
  rw [if_pos (by simpa [brightThreshold] using h)]

/-- Any other pixel gives zero in BP (R115). -/
theorem brightPixel_of_not_bright {p : Pixel} (h : (luma8 p.r p.g p.b).toNat ≤ 180) :
    brightPixel p = { r := 0, g := 0, b := 0 } := by
  unfold brightPixel
  rw [if_neg (by simpa [brightThreshold] using h)]

/-- A recombined channel: the sum, held at 255 (R118). -/
theorem clamp8_add (c v : Byte) : (clamp8 ((c.toNat : Int) + v.toNat)).toNat = min 255 (c.toNat + v.toNat) := by
  by_cases h : c.toNat + v.toNat ≤ 255
  · have hc := clamp8_of_nat_le h
    push_cast at hc
    rw [hc]
    omega
  · rw [clamp8, if_neg (by simp only [chMin]; omega), if_pos (by simp only [chMax]; omega)]
    simp only [chMax, BitVec.toNat_ofNat]
    omega

end Sys2Proof.Machine
end

