-- ==== Sys2Proof/Laws/Encoding.lean ====
section
/-! SUPPORT. The laws of the command word: its fields, its bytes, and the fetch from the latched command. -/

namespace Sys2Proof

@[simp] theorem CmdWord.pack_op (o : BitVec 2) (w h l : Word) : (CmdWord.pack o w h l).op = o := by
  unfold CmdWord.op CmdWord.pack
  ext i hi
  have h32 : i < 2 := hi
  simp only [BitVec.getElem_extractLsb']
  grind

@[simp] theorem CmdWord.pack_width (o : BitVec 2) (w h l : Word) : (CmdWord.pack o w h l).width = w := by
  unfold CmdWord.width CmdWord.pack
  ext i hi
  simp only [BitVec.getElem_extractLsb']
  grind

@[simp] theorem CmdWord.pack_height (o : BitVec 2) (w h l : Word) : (CmdWord.pack o w h l).height = h := by
  unfold CmdWord.height CmdWord.pack
  ext i hi
  simp only [BitVec.getElem_extractLsb']
  grind

@[simp] theorem CmdWord.pack_len (o : BitVec 2) (w h l : Word) : (CmdWord.pack o w h l).len = l := by
  unfold CmdWord.len CmdWord.pack
  ext i hi
  simp only [BitVec.getElem_extractLsb']
  grind

theorem sext32_dimField {v : Int} (h : DimInRange v) : sext32 (dimField v) = v := by
  simp only [DimInRange, Config.dimBits] at h
  simp only [sext32, dimField, BitVec.toInt_ofInt, Int.bmod]
  omega

theorem zext32_lenField {n : Nat} (h : LenInRange n) : zext32 (lenField n) = n := by
  simp only [LenInRange, Config.lenBits] at h
  simp only [zext32, lenField, BitVec.toNat_ofNat]
  omega

/-- Which command the op field selects; the operands are the fields' values (R51, R53). -/
theorem decodeFields_operands (o : BitVec 2) (w h l : Word) :
    (decodeFields o w h l).op = o ∧ (decodeFields o w h l).width = sext32 w ∧
      (decodeFields o w h l).height = sext32 h ∧ (decodeFields o w h l).len = zext32 l := by
  unfold decodeFields
  split <;> exact ⟨rfl, rfl, rfl, rfl⟩

@[simp] theorem toBytesLE_length (k n : Nat) : (toBytesLE k n).length = k := by
  induction k generalizing n with
  | zero => rfl
  | succ k ih => simp [toBytesLE, ih]

theorem fromBytesLE_toBytesLE (k n : Nat) : fromBytesLE (toBytesLE k n) = n % 256 ^ k := by
  induction k generalizing n with
  | zero => simp [toBytesLE, fromBytesLE, Nat.mod_one]
  | succ k ih =>
    have h : n % 256 ^ (k + 1) = n % 256 + 256 * (n / 256 % 256 ^ k) := by rw [Nat.pow_succ', Nat.mod_mul]
    rw [toBytesLE, fromBytesLE, ih, BitVec.toNat_ofNat, h]

end Sys2Proof

namespace Sys2Proof.Machine

@[simp] theorem Cmd.word_op (c : Cmd) : c.word.op = c.op := CmdWord.pack_op _ _ _ _
@[simp] theorem Cmd.word_width (c : Cmd) : c.word.width = c.width := CmdWord.pack_width _ _ _ _
@[simp] theorem Cmd.word_height (c : Cmd) : c.word.height = c.height := CmdWord.pack_height _ _ _ _
@[simp] theorem Cmd.word_len (c : Cmd) : c.word.len = c.len := CmdWord.pack_len _ _ _ _

/-- The fetched command has the latched fields for operands. -/
theorem State.fetch_operands (s : State) :
    s.fetch.op = s.cmd.op ∧ s.fetch.width = sext32 s.cmd.width ∧ s.fetch.height = sext32 s.cmd.height ∧
      s.fetch.len = zext32 s.cmd.len := by
  have h := decodeFields_operands s.cmd.op s.cmd.width s.cmd.height s.cmd.len
  simpa [State.fetch, decodeWord] using h

/-- Which command runs, by the latched op. -/
theorem State.fetch_eq (s : State) :
    s.fetch = decodeFields s.cmd.op s.cmd.width s.cmd.height s.cmd.len := by
  simp [State.fetch, decodeWord]

end Sys2Proof.Machine
end

