-- ==== Sys2Proof/Laws/State.lean ====
section
/-! SUPPORT. One lemma per field of State per update, each true by definition, so that no proof unfolds an update. -/

namespace Sys2Proof.Machine

/-! ### launch -/

@[simp] theorem State.launch_op (s : State) : s.launch.op = s.op := rfl
@[simp] theorem State.launch_width (s : State) : s.launch.width = s.width := rfl
@[simp] theorem State.launch_height (s : State) : s.launch.height = s.height := rfl
@[simp] theorem State.launch_len (s : State) : s.launch.len = s.len := rfl
@[simp] theorem State.launch_busy (s : State) : s.launch.busy = true := rfl
@[simp] theorem State.launch_done (s : State) : s.launch.done = false := rfl
@[simp] theorem State.launch_fatal (s : State) : s.launch.fatal = s.fatal := rfl
@[simp] theorem State.launch_outLen (s : State) : s.launch.outLen = 0 := rfl
@[simp] theorem State.launch_cmd (s : State) : s.launch.cmd = { op := s.op, width := s.width, height := s.height, len := s.len } := rfl
@[simp] theorem State.launch_phase (s : State) : s.launch.phase = .check := rfl
@[simp] theorem State.launch_src (s : State) : s.launch.src = s.src := rfl
@[simp] theorem State.launch_dst (s : State) : s.launch.dst = s.dst := rfl
@[simp] theorem State.launch_bp (s : State) : s.launch.bp = s.bp := rfl
@[simp] theorem State.launch_hb (s : State) : s.launch.hb = s.hb := rfl
@[simp] theorem State.launch_vb (s : State) : s.launch.vb = s.vb := rfl
@[simp] theorem State.launch_capPixels (s : State) : s.launch.capPixels = s.capPixels := rfl
@[simp] theorem State.launch_instanceNo (s : State) : s.launch.instanceNo = s.instanceNo := rfl
@[simp] theorem State.launch_draws (s : State) : s.launch.draws = s.draws := rfl
@[simp] theorem State.launch_hostQueue (s : State) : s.launch.hostQueue = s.hostQueue := rfl
@[simp] theorem State.launch_hostReplies (s : State) : s.launch.hostReplies = s.hostReplies := rfl

/-! ### setOperands -/

@[simp] theorem State.setOperands_op (s : State) (w : CmdWord) : (s.setOperands w).op = w.op := rfl
@[simp] theorem State.setOperands_width (s : State) (w : CmdWord) : (s.setOperands w).width = w.width := rfl
@[simp] theorem State.setOperands_height (s : State) (w : CmdWord) : (s.setOperands w).height = w.height := rfl
@[simp] theorem State.setOperands_len (s : State) (w : CmdWord) : (s.setOperands w).len = w.len := rfl
@[simp] theorem State.setOperands_busy (s : State) (w : CmdWord) : (s.setOperands w).busy = s.busy := rfl
@[simp] theorem State.setOperands_done (s : State) (w : CmdWord) : (s.setOperands w).done = s.done := rfl
@[simp] theorem State.setOperands_fatal (s : State) (w : CmdWord) : (s.setOperands w).fatal = s.fatal := rfl
@[simp] theorem State.setOperands_outLen (s : State) (w : CmdWord) : (s.setOperands w).outLen = s.outLen := rfl
@[simp] theorem State.setOperands_cmd (s : State) (w : CmdWord) : (s.setOperands w).cmd = s.cmd := rfl
@[simp] theorem State.setOperands_phase (s : State) (w : CmdWord) : (s.setOperands w).phase = s.phase := rfl
@[simp] theorem State.setOperands_src (s : State) (w : CmdWord) : (s.setOperands w).src = s.src := rfl
@[simp] theorem State.setOperands_dst (s : State) (w : CmdWord) : (s.setOperands w).dst = s.dst := rfl
@[simp] theorem State.setOperands_bp (s : State) (w : CmdWord) : (s.setOperands w).bp = s.bp := rfl
@[simp] theorem State.setOperands_hb (s : State) (w : CmdWord) : (s.setOperands w).hb = s.hb := rfl
@[simp] theorem State.setOperands_vb (s : State) (w : CmdWord) : (s.setOperands w).vb = s.vb := rfl
@[simp] theorem State.setOperands_capPixels (s : State) (w : CmdWord) : (s.setOperands w).capPixels = s.capPixels := rfl
@[simp] theorem State.setOperands_instanceNo (s : State) (w : CmdWord) : (s.setOperands w).instanceNo = s.instanceNo := rfl
@[simp] theorem State.setOperands_draws (s : State) (w : CmdWord) : (s.setOperands w).draws = s.draws := rfl
@[simp] theorem State.setOperands_hostQueue (s : State) (w : CmdWord) : (s.setOperands w).hostQueue = s.hostQueue := rfl
@[simp] theorem State.setOperands_hostReplies (s : State) (w : CmdWord) : (s.setOperands w).hostReplies = s.hostReplies := rfl

/-! ### launchWord -/

@[simp] theorem State.launchWord_op (s : State) (w : CmdWord) : (s.launchWord w).op = w.op := rfl
@[simp] theorem State.launchWord_width (s : State) (w : CmdWord) : (s.launchWord w).width = w.width := rfl
@[simp] theorem State.launchWord_height (s : State) (w : CmdWord) : (s.launchWord w).height = w.height := rfl
@[simp] theorem State.launchWord_len (s : State) (w : CmdWord) : (s.launchWord w).len = w.len := rfl
@[simp] theorem State.launchWord_busy (s : State) (w : CmdWord) : (s.launchWord w).busy = true := rfl
@[simp] theorem State.launchWord_done (s : State) (w : CmdWord) : (s.launchWord w).done = false := rfl
@[simp] theorem State.launchWord_fatal (s : State) (w : CmdWord) : (s.launchWord w).fatal = false := rfl
@[simp] theorem State.launchWord_outLen (s : State) (w : CmdWord) : (s.launchWord w).outLen = 0 := rfl
@[simp] theorem State.launchWord_cmd (s : State) (w : CmdWord) : (s.launchWord w).cmd = { op := w.op, width := w.width, height := w.height, len := w.len } := rfl
@[simp] theorem State.launchWord_phase (s : State) (w : CmdWord) : (s.launchWord w).phase = .check := rfl
@[simp] theorem State.launchWord_src (s : State) (w : CmdWord) : (s.launchWord w).src = s.src := rfl
@[simp] theorem State.launchWord_dst (s : State) (w : CmdWord) : (s.launchWord w).dst = s.dst := rfl
@[simp] theorem State.launchWord_bp (s : State) (w : CmdWord) : (s.launchWord w).bp = s.bp := rfl
@[simp] theorem State.launchWord_hb (s : State) (w : CmdWord) : (s.launchWord w).hb = s.hb := rfl
@[simp] theorem State.launchWord_vb (s : State) (w : CmdWord) : (s.launchWord w).vb = s.vb := rfl
@[simp] theorem State.launchWord_capPixels (s : State) (w : CmdWord) : (s.launchWord w).capPixels = s.capPixels := rfl
@[simp] theorem State.launchWord_instanceNo (s : State) (w : CmdWord) : (s.launchWord w).instanceNo = s.instanceNo := rfl
@[simp] theorem State.launchWord_draws (s : State) (w : CmdWord) : (s.launchWord w).draws = s.draws := rfl
@[simp] theorem State.launchWord_hostQueue (s : State) (w : CmdWord) : (s.launchWord w).hostQueue = [] := rfl
@[simp] theorem State.launchWord_hostReplies (s : State) (w : CmdWord) : (s.launchWord w).hostReplies = s.hostReplies := rfl

/-! ### raise_invalidInput -/

@[simp] theorem State.raise_invalidInput_op (s : State) : (s.raise .invalidInput).op = s.op := rfl
@[simp] theorem State.raise_invalidInput_width (s : State) : (s.raise .invalidInput).width = s.width := rfl
@[simp] theorem State.raise_invalidInput_height (s : State) : (s.raise .invalidInput).height = s.height := rfl
@[simp] theorem State.raise_invalidInput_len (s : State) : (s.raise .invalidInput).len = s.len := rfl
@[simp] theorem State.raise_invalidInput_busy (s : State) : (s.raise .invalidInput).busy = false := rfl
@[simp] theorem State.raise_invalidInput_done (s : State) : (s.raise .invalidInput).done = true := rfl
@[simp] theorem State.raise_invalidInput_fatal (s : State) : (s.raise .invalidInput).fatal = s.fatal := rfl
@[simp] theorem State.raise_invalidInput_outLen (s : State) : (s.raise .invalidInput).outLen = 0 := rfl
@[simp] theorem State.raise_invalidInput_cmd (s : State) : (s.raise .invalidInput).cmd = s.cmd := rfl
@[simp] theorem State.raise_invalidInput_phase (s : State) : (s.raise .invalidInput).phase = .idle := rfl
@[simp] theorem State.raise_invalidInput_src (s : State) : (s.raise .invalidInput).src = s.src := rfl
@[simp] theorem State.raise_invalidInput_dst (s : State) : (s.raise .invalidInput).dst = s.dst := rfl
@[simp] theorem State.raise_invalidInput_bp (s : State) : (s.raise .invalidInput).bp = s.bp := rfl
@[simp] theorem State.raise_invalidInput_hb (s : State) : (s.raise .invalidInput).hb = s.hb := rfl
@[simp] theorem State.raise_invalidInput_vb (s : State) : (s.raise .invalidInput).vb = s.vb := rfl
@[simp] theorem State.raise_invalidInput_capPixels (s : State) : (s.raise .invalidInput).capPixels = s.capPixels := rfl
@[simp] theorem State.raise_invalidInput_instanceNo (s : State) : (s.raise .invalidInput).instanceNo = s.instanceNo := rfl
@[simp] theorem State.raise_invalidInput_draws (s : State) : (s.raise .invalidInput).draws = s.draws := rfl
@[simp] theorem State.raise_invalidInput_hostQueue (s : State) : (s.raise .invalidInput).hostQueue = s.hostQueue := rfl
@[simp] theorem State.raise_invalidInput_hostReplies (s : State) : (s.raise .invalidInput).hostReplies = s.hostReplies := rfl

/-! ### raise_capacity -/

@[simp] theorem State.raise_capacity_op (s : State) : (s.raise .capacity).op = s.op := rfl
@[simp] theorem State.raise_capacity_width (s : State) : (s.raise .capacity).width = s.width := rfl
@[simp] theorem State.raise_capacity_height (s : State) : (s.raise .capacity).height = s.height := rfl
@[simp] theorem State.raise_capacity_len (s : State) : (s.raise .capacity).len = s.len := rfl
@[simp] theorem State.raise_capacity_busy (s : State) : (s.raise .capacity).busy = false := rfl
@[simp] theorem State.raise_capacity_done (s : State) : (s.raise .capacity).done = s.done := rfl
@[simp] theorem State.raise_capacity_fatal (s : State) : (s.raise .capacity).fatal = true := rfl
@[simp] theorem State.raise_capacity_outLen (s : State) : (s.raise .capacity).outLen = s.outLen := rfl
@[simp] theorem State.raise_capacity_cmd (s : State) : (s.raise .capacity).cmd = s.cmd := rfl
@[simp] theorem State.raise_capacity_phase (s : State) : (s.raise .capacity).phase = .halt := rfl
@[simp] theorem State.raise_capacity_src (s : State) : (s.raise .capacity).src = s.src := rfl
@[simp] theorem State.raise_capacity_dst (s : State) : (s.raise .capacity).dst = s.dst := rfl
@[simp] theorem State.raise_capacity_bp (s : State) : (s.raise .capacity).bp = s.bp := rfl
@[simp] theorem State.raise_capacity_hb (s : State) : (s.raise .capacity).hb = s.hb := rfl
@[simp] theorem State.raise_capacity_vb (s : State) : (s.raise .capacity).vb = s.vb := rfl
@[simp] theorem State.raise_capacity_capPixels (s : State) : (s.raise .capacity).capPixels = s.capPixels := rfl
@[simp] theorem State.raise_capacity_instanceNo (s : State) : (s.raise .capacity).instanceNo = s.instanceNo := rfl
@[simp] theorem State.raise_capacity_draws (s : State) : (s.raise .capacity).draws = s.draws := rfl
@[simp] theorem State.raise_capacity_hostQueue (s : State) : (s.raise .capacity).hostQueue = s.hostQueue := rfl
@[simp] theorem State.raise_capacity_hostReplies (s : State) : (s.raise .capacity).hostReplies = s.hostReplies := rfl

/-! ### publish -/

@[simp] theorem State.publish_op (s : State) (n : Nat) : (s.publish n).op = s.op := rfl
@[simp] theorem State.publish_width (s : State) (n : Nat) : (s.publish n).width = s.width := rfl
@[simp] theorem State.publish_height (s : State) (n : Nat) : (s.publish n).height = s.height := rfl
@[simp] theorem State.publish_len (s : State) (n : Nat) : (s.publish n).len = s.len := rfl
@[simp] theorem State.publish_busy (s : State) (n : Nat) : (s.publish n).busy = false := rfl
@[simp] theorem State.publish_done (s : State) (n : Nat) : (s.publish n).done = true := rfl
@[simp] theorem State.publish_fatal (s : State) (n : Nat) : (s.publish n).fatal = s.fatal := rfl
@[simp] theorem State.publish_outLen (s : State) (n : Nat) : (s.publish n).outLen = BitVec.ofNat 32 n := rfl
@[simp] theorem State.publish_cmd (s : State) (n : Nat) : (s.publish n).cmd = s.cmd := rfl
@[simp] theorem State.publish_phase (s : State) (n : Nat) : (s.publish n).phase = .idle := rfl
@[simp] theorem State.publish_src (s : State) (n : Nat) : (s.publish n).src = s.src := rfl
@[simp] theorem State.publish_dst (s : State) (n : Nat) : (s.publish n).dst = s.dst := rfl
@[simp] theorem State.publish_bp (s : State) (n : Nat) : (s.publish n).bp = s.bp := rfl
@[simp] theorem State.publish_hb (s : State) (n : Nat) : (s.publish n).hb = s.hb := rfl
@[simp] theorem State.publish_vb (s : State) (n : Nat) : (s.publish n).vb = s.vb := rfl
@[simp] theorem State.publish_capPixels (s : State) (n : Nat) : (s.publish n).capPixels = s.capPixels := rfl
@[simp] theorem State.publish_instanceNo (s : State) (n : Nat) : (s.publish n).instanceNo = s.instanceNo := rfl
@[simp] theorem State.publish_draws (s : State) (n : Nat) : (s.publish n).draws = s.draws := rfl
@[simp] theorem State.publish_hostQueue (s : State) (n : Nat) : (s.publish n).hostQueue = s.hostQueue := rfl
@[simp] theorem State.publish_hostReplies (s : State) (n : Nat) : (s.publish n).hostReplies = s.hostReplies := rfl

/-! ### storePixels -/

@[simp] theorem State.storePixels_op (s : State) (ps : List Pixel) : (s.storePixels ps).op = s.op := rfl
@[simp] theorem State.storePixels_width (s : State) (ps : List Pixel) : (s.storePixels ps).width = s.width := rfl
@[simp] theorem State.storePixels_height (s : State) (ps : List Pixel) : (s.storePixels ps).height = s.height := rfl
@[simp] theorem State.storePixels_len (s : State) (ps : List Pixel) : (s.storePixels ps).len = s.len := rfl
@[simp] theorem State.storePixels_busy (s : State) (ps : List Pixel) : (s.storePixels ps).busy = s.busy := rfl
@[simp] theorem State.storePixels_done (s : State) (ps : List Pixel) : (s.storePixels ps).done = s.done := rfl
@[simp] theorem State.storePixels_fatal (s : State) (ps : List Pixel) : (s.storePixels ps).fatal = s.fatal := rfl
@[simp] theorem State.storePixels_outLen (s : State) (ps : List Pixel) : (s.storePixels ps).outLen = s.outLen := rfl
@[simp] theorem State.storePixels_cmd (s : State) (ps : List Pixel) : (s.storePixels ps).cmd = s.cmd := rfl
@[simp] theorem State.storePixels_phase (s : State) (ps : List Pixel) : (s.storePixels ps).phase = s.phase := rfl
@[simp] theorem State.storePixels_src (s : State) (ps : List Pixel) : (s.storePixels ps).src = s.src := rfl
@[simp] theorem State.storePixels_dst (s : State) (ps : List Pixel) : (s.storePixels ps).dst = encodePacked4 s.dst ps := rfl
@[simp] theorem State.storePixels_bp (s : State) (ps : List Pixel) : (s.storePixels ps).bp = s.bp := rfl
@[simp] theorem State.storePixels_hb (s : State) (ps : List Pixel) : (s.storePixels ps).hb = s.hb := rfl
@[simp] theorem State.storePixels_vb (s : State) (ps : List Pixel) : (s.storePixels ps).vb = s.vb := rfl
@[simp] theorem State.storePixels_capPixels (s : State) (ps : List Pixel) : (s.storePixels ps).capPixels = s.capPixels := rfl
@[simp] theorem State.storePixels_instanceNo (s : State) (ps : List Pixel) : (s.storePixels ps).instanceNo = s.instanceNo := rfl
@[simp] theorem State.storePixels_draws (s : State) (ps : List Pixel) : (s.storePixels ps).draws = s.draws := rfl
@[simp] theorem State.storePixels_hostQueue (s : State) (ps : List Pixel) : (s.storePixels ps).hostQueue = s.hostQueue := rfl
@[simp] theorem State.storePixels_hostReplies (s : State) (ps : List Pixel) : (s.storePixels ps).hostReplies = s.hostReplies := rfl

/-! ### afterReset -/

@[simp] theorem State.afterReset_op (s : State) : s.afterReset.op = 0 := rfl
@[simp] theorem State.afterReset_width (s : State) : s.afterReset.width = 0 := rfl
@[simp] theorem State.afterReset_height (s : State) : s.afterReset.height = 0 := rfl
@[simp] theorem State.afterReset_len (s : State) : s.afterReset.len = 0 := rfl
@[simp] theorem State.afterReset_busy (s : State) : s.afterReset.busy = false := rfl
@[simp] theorem State.afterReset_done (s : State) : s.afterReset.done = false := rfl
@[simp] theorem State.afterReset_fatal (s : State) : s.afterReset.fatal = false := rfl
@[simp] theorem State.afterReset_outLen (s : State) : s.afterReset.outLen = 0 := rfl
@[simp] theorem State.afterReset_cmd (s : State) : s.afterReset.cmd = { op := 0, width := 0, height := 0, len := 0 } := rfl
@[simp] theorem State.afterReset_phase (s : State) : s.afterReset.phase = .idle := rfl
@[simp] theorem State.afterReset_src (s : State) : s.afterReset.src = [] := rfl
@[simp] theorem State.afterReset_dst (s : State) : s.afterReset.dst = [] := rfl
@[simp] theorem State.afterReset_bp (s : State) : s.afterReset.bp = [] := rfl
@[simp] theorem State.afterReset_hb (s : State) : s.afterReset.hb = [] := rfl
@[simp] theorem State.afterReset_vb (s : State) : s.afterReset.vb = [] := rfl
@[simp] theorem State.afterReset_capPixels (s : State) : s.afterReset.capPixels = s.capPixels := rfl
@[simp] theorem State.afterReset_instanceNo (s : State) : s.afterReset.instanceNo = s.instanceNo := rfl
@[simp] theorem State.afterReset_draws (s : State) : s.afterReset.draws = s.draws := rfl
@[simp] theorem State.afterReset_hostQueue (s : State) : s.afterReset.hostQueue = s.hostQueue := rfl
@[simp] theorem State.afterReset_hostReplies (s : State) : s.afterReset.hostReplies = s.hostReplies := rfl

/-! ### draw -/

@[simp] theorem State.draw_op (s : State) : s.draw.2.op = s.op := rfl
@[simp] theorem State.draw_width (s : State) : s.draw.2.width = s.width := rfl
@[simp] theorem State.draw_height (s : State) : s.draw.2.height = s.height := rfl
@[simp] theorem State.draw_len (s : State) : s.draw.2.len = s.len := rfl
@[simp] theorem State.draw_busy (s : State) : s.draw.2.busy = s.busy := rfl
@[simp] theorem State.draw_done (s : State) : s.draw.2.done = s.done := rfl
@[simp] theorem State.draw_fatal (s : State) : s.draw.2.fatal = s.fatal := rfl
@[simp] theorem State.draw_outLen (s : State) : s.draw.2.outLen = s.outLen := rfl
@[simp] theorem State.draw_cmd (s : State) : s.draw.2.cmd = s.cmd := rfl
@[simp] theorem State.draw_phase (s : State) : s.draw.2.phase = s.phase := rfl
@[simp] theorem State.draw_src (s : State) : s.draw.2.src = s.src := rfl
@[simp] theorem State.draw_dst (s : State) : s.draw.2.dst = s.dst := rfl
@[simp] theorem State.draw_bp (s : State) : s.draw.2.bp = s.bp := rfl
@[simp] theorem State.draw_hb (s : State) : s.draw.2.hb = s.hb := rfl
@[simp] theorem State.draw_vb (s : State) : s.draw.2.vb = s.vb := rfl
@[simp] theorem State.draw_capPixels (s : State) : s.draw.2.capPixels = s.capPixels := rfl
@[simp] theorem State.draw_instanceNo (s : State) : s.draw.2.instanceNo = s.instanceNo := rfl
@[simp] theorem State.draw_draws (s : State) : s.draw.2.draws = s.draws + 1 := rfl
@[simp] theorem State.draw_hostQueue (s : State) : s.draw.2.hostQueue = s.hostQueue := rfl
@[simp] theorem State.draw_hostReplies (s : State) : s.draw.2.hostReplies = s.hostReplies := rfl

/-! ### reply -/

@[simp] theorem State.reply_op (s : State) (r : HostReply) : (s.reply r).op = s.op := rfl
@[simp] theorem State.reply_width (s : State) (r : HostReply) : (s.reply r).width = s.width := rfl
@[simp] theorem State.reply_height (s : State) (r : HostReply) : (s.reply r).height = s.height := rfl
@[simp] theorem State.reply_len (s : State) (r : HostReply) : (s.reply r).len = s.len := rfl
@[simp] theorem State.reply_busy (s : State) (r : HostReply) : (s.reply r).busy = s.busy := rfl
@[simp] theorem State.reply_done (s : State) (r : HostReply) : (s.reply r).done = s.done := rfl
@[simp] theorem State.reply_fatal (s : State) (r : HostReply) : (s.reply r).fatal = s.fatal := rfl
@[simp] theorem State.reply_outLen (s : State) (r : HostReply) : (s.reply r).outLen = s.outLen := rfl
@[simp] theorem State.reply_cmd (s : State) (r : HostReply) : (s.reply r).cmd = s.cmd := rfl
@[simp] theorem State.reply_phase (s : State) (r : HostReply) : (s.reply r).phase = s.phase := rfl
@[simp] theorem State.reply_src (s : State) (r : HostReply) : (s.reply r).src = s.src := rfl
@[simp] theorem State.reply_dst (s : State) (r : HostReply) : (s.reply r).dst = s.dst := rfl
@[simp] theorem State.reply_bp (s : State) (r : HostReply) : (s.reply r).bp = s.bp := rfl
@[simp] theorem State.reply_hb (s : State) (r : HostReply) : (s.reply r).hb = s.hb := rfl
@[simp] theorem State.reply_vb (s : State) (r : HostReply) : (s.reply r).vb = s.vb := rfl
@[simp] theorem State.reply_capPixels (s : State) (r : HostReply) : (s.reply r).capPixels = s.capPixels := rfl
@[simp] theorem State.reply_instanceNo (s : State) (r : HostReply) : (s.reply r).instanceNo = s.instanceNo := rfl
@[simp] theorem State.reply_draws (s : State) (r : HostReply) : (s.reply r).draws = s.draws := rfl
@[simp] theorem State.reply_hostQueue (s : State) (r : HostReply) : (s.reply r).hostQueue = s.hostQueue := rfl
@[simp] theorem State.reply_hostReplies (s : State) (r : HostReply) : (s.reply r).hostReplies = r :: s.hostReplies := rfl

/-! ### enter -/

@[simp] theorem State.enter_op (s : State) (p : Phase) : (s.enter p).op = s.op := rfl
@[simp] theorem State.enter_width (s : State) (p : Phase) : (s.enter p).width = s.width := rfl
@[simp] theorem State.enter_height (s : State) (p : Phase) : (s.enter p).height = s.height := rfl
@[simp] theorem State.enter_len (s : State) (p : Phase) : (s.enter p).len = s.len := rfl
@[simp] theorem State.enter_busy (s : State) (p : Phase) : (s.enter p).busy = s.busy := rfl
@[simp] theorem State.enter_done (s : State) (p : Phase) : (s.enter p).done = s.done := rfl
@[simp] theorem State.enter_fatal (s : State) (p : Phase) : (s.enter p).fatal = s.fatal := rfl
@[simp] theorem State.enter_outLen (s : State) (p : Phase) : (s.enter p).outLen = s.outLen := rfl
@[simp] theorem State.enter_cmd (s : State) (p : Phase) : (s.enter p).cmd = s.cmd := rfl
@[simp] theorem State.enter_phase (s : State) (p : Phase) : (s.enter p).phase = p := rfl
@[simp] theorem State.enter_src (s : State) (p : Phase) : (s.enter p).src = s.src := rfl
@[simp] theorem State.enter_dst (s : State) (p : Phase) : (s.enter p).dst = s.dst := rfl
@[simp] theorem State.enter_bp (s : State) (p : Phase) : (s.enter p).bp = s.bp := rfl
@[simp] theorem State.enter_hb (s : State) (p : Phase) : (s.enter p).hb = s.hb := rfl
@[simp] theorem State.enter_vb (s : State) (p : Phase) : (s.enter p).vb = s.vb := rfl
@[simp] theorem State.enter_capPixels (s : State) (p : Phase) : (s.enter p).capPixels = s.capPixels := rfl
@[simp] theorem State.enter_instanceNo (s : State) (p : Phase) : (s.enter p).instanceNo = s.instanceNo := rfl
@[simp] theorem State.enter_draws (s : State) (p : Phase) : (s.enter p).draws = s.draws := rfl
@[simp] theorem State.enter_hostQueue (s : State) (p : Phase) : (s.enter p).hostQueue = s.hostQueue := rfl
@[simp] theorem State.enter_hostReplies (s : State) (p : Phase) : (s.enter p).hostReplies = s.hostReplies := rfl

/-! ### chosen -/

@[simp] theorem State.chosen_op (s : State) : s.chosen.op = s.op := rfl
@[simp] theorem State.chosen_width (s : State) : s.chosen.width = s.width := rfl
@[simp] theorem State.chosen_height (s : State) : s.chosen.height = s.height := rfl
@[simp] theorem State.chosen_len (s : State) : s.chosen.len = s.len := rfl
@[simp] theorem State.chosen_busy (s : State) : s.chosen.busy = s.busy := rfl
@[simp] theorem State.chosen_done (s : State) : s.chosen.done = s.done := rfl
@[simp] theorem State.chosen_fatal (s : State) : s.chosen.fatal = s.fatal := rfl
@[simp] theorem State.chosen_outLen (s : State) : s.chosen.outLen = s.outLen := rfl
@[simp] theorem State.chosen_cmd (s : State) : s.chosen.cmd = s.cmd := rfl
@[simp] theorem State.chosen_phase (s : State) : s.chosen.phase = s.phase := rfl
@[simp] theorem State.chosen_src (s : State) : s.chosen.src = s.src := rfl
@[simp] theorem State.chosen_dst (s : State) : s.chosen.dst = s.dst := rfl
@[simp] theorem State.chosen_bp (s : State) : s.chosen.bp = s.bp := rfl
@[simp] theorem State.chosen_hb (s : State) : s.chosen.hb = s.hb := rfl
@[simp] theorem State.chosen_vb (s : State) : s.chosen.vb = s.vb := rfl
@[simp] theorem State.chosen_capPixels (s : State) : s.chosen.capPixels = s.capPixels := rfl
@[simp] theorem State.chosen_instanceNo (s : State) : s.chosen.instanceNo = s.instanceNo := rfl
@[simp] theorem State.chosen_draws (s : State) : s.chosen.draws = s.draws + 1 := rfl
@[simp] theorem State.chosen_hostQueue (s : State) : s.chosen.hostQueue = s.hostQueue := rfl
@[simp] theorem State.chosen_hostReplies (s : State) : s.chosen.hostReplies = s.hostReplies := rfl

/-! ### popHost -/

@[simp] theorem State.popHost_op (s : State) : s.popHost.op = s.op := rfl
@[simp] theorem State.popHost_width (s : State) : s.popHost.width = s.width := rfl
@[simp] theorem State.popHost_height (s : State) : s.popHost.height = s.height := rfl
@[simp] theorem State.popHost_len (s : State) : s.popHost.len = s.len := rfl
@[simp] theorem State.popHost_busy (s : State) : s.popHost.busy = s.busy := rfl
@[simp] theorem State.popHost_done (s : State) : s.popHost.done = s.done := rfl
@[simp] theorem State.popHost_fatal (s : State) : s.popHost.fatal = s.fatal := rfl
@[simp] theorem State.popHost_outLen (s : State) : s.popHost.outLen = s.outLen := rfl
@[simp] theorem State.popHost_cmd (s : State) : s.popHost.cmd = s.cmd := rfl
@[simp] theorem State.popHost_phase (s : State) : s.popHost.phase = s.phase := rfl
@[simp] theorem State.popHost_src (s : State) : s.popHost.src = s.src := rfl
@[simp] theorem State.popHost_dst (s : State) : s.popHost.dst = s.dst := rfl
@[simp] theorem State.popHost_bp (s : State) : s.popHost.bp = s.bp := rfl
@[simp] theorem State.popHost_hb (s : State) : s.popHost.hb = s.hb := rfl
@[simp] theorem State.popHost_vb (s : State) : s.popHost.vb = s.vb := rfl
@[simp] theorem State.popHost_capPixels (s : State) : s.popHost.capPixels = s.capPixels := rfl
@[simp] theorem State.popHost_instanceNo (s : State) : s.popHost.instanceNo = s.instanceNo := rfl
@[simp] theorem State.popHost_draws (s : State) : s.popHost.draws = s.draws := rfl
@[simp] theorem State.popHost_hostQueue (s : State) : s.popHost.hostQueue = s.hostQueue.tail := rfl
@[simp] theorem State.popHost_hostReplies (s : State) : s.popHost.hostReplies = s.hostReplies := rfl

/-! ### hblurStage -/

@[simp] theorem State.hblurStage_op (s : State) (w h : Nat) : (hblurStage w h s).op = s.op := rfl
@[simp] theorem State.hblurStage_width (s : State) (w h : Nat) : (hblurStage w h s).width = s.width := rfl
@[simp] theorem State.hblurStage_height (s : State) (w h : Nat) : (hblurStage w h s).height = s.height := rfl
@[simp] theorem State.hblurStage_len (s : State) (w h : Nat) : (hblurStage w h s).len = s.len := rfl
@[simp] theorem State.hblurStage_busy (s : State) (w h : Nat) : (hblurStage w h s).busy = s.busy := rfl
@[simp] theorem State.hblurStage_done (s : State) (w h : Nat) : (hblurStage w h s).done = s.done := rfl
@[simp] theorem State.hblurStage_fatal (s : State) (w h : Nat) : (hblurStage w h s).fatal = s.fatal := rfl
@[simp] theorem State.hblurStage_outLen (s : State) (w h : Nat) : (hblurStage w h s).outLen = s.outLen := rfl
@[simp] theorem State.hblurStage_cmd (s : State) (w h : Nat) : (hblurStage w h s).cmd = s.cmd := rfl
@[simp] theorem State.hblurStage_phase (s : State) (w h : Nat) : (hblurStage w h s).phase = s.phase := rfl
@[simp] theorem State.hblurStage_src (s : State) (w h : Nat) : (hblurStage w h s).src = s.src := rfl
@[simp] theorem State.hblurStage_dst (s : State) (w h : Nat) : (hblurStage w h s).dst = s.dst := rfl
@[simp] theorem State.hblurStage_bp (s : State) (w h : Nat) : (hblurStage w h s).bp = s.bp := rfl
@[simp] theorem State.hblurStage_hb (s : State) (w h : Nat) : (hblurStage w h s).hb = hblur w h s.bp := rfl
@[simp] theorem State.hblurStage_vb (s : State) (w h : Nat) : (hblurStage w h s).vb = s.vb := rfl
@[simp] theorem State.hblurStage_capPixels (s : State) (w h : Nat) : (hblurStage w h s).capPixels = s.capPixels := rfl
@[simp] theorem State.hblurStage_instanceNo (s : State) (w h : Nat) : (hblurStage w h s).instanceNo = s.instanceNo := rfl
@[simp] theorem State.hblurStage_draws (s : State) (w h : Nat) : (hblurStage w h s).draws = s.draws := rfl
@[simp] theorem State.hblurStage_hostQueue (s : State) (w h : Nat) : (hblurStage w h s).hostQueue = s.hostQueue := rfl
@[simp] theorem State.hblurStage_hostReplies (s : State) (w h : Nat) : (hblurStage w h s).hostReplies = s.hostReplies := rfl

/-! ### vblurStage -/

@[simp] theorem State.vblurStage_op (s : State) (w h : Nat) : (vblurStage w h s).op = s.op := rfl
@[simp] theorem State.vblurStage_width (s : State) (w h : Nat) : (vblurStage w h s).width = s.width := rfl
@[simp] theorem State.vblurStage_height (s : State) (w h : Nat) : (vblurStage w h s).height = s.height := rfl
@[simp] theorem State.vblurStage_len (s : State) (w h : Nat) : (vblurStage w h s).len = s.len := rfl
@[simp] theorem State.vblurStage_busy (s : State) (w h : Nat) : (vblurStage w h s).busy = s.busy := rfl
@[simp] theorem State.vblurStage_done (s : State) (w h : Nat) : (vblurStage w h s).done = s.done := rfl
@[simp] theorem State.vblurStage_fatal (s : State) (w h : Nat) : (vblurStage w h s).fatal = s.fatal := rfl
@[simp] theorem State.vblurStage_outLen (s : State) (w h : Nat) : (vblurStage w h s).outLen = s.outLen := rfl
@[simp] theorem State.vblurStage_cmd (s : State) (w h : Nat) : (vblurStage w h s).cmd = s.cmd := rfl
@[simp] theorem State.vblurStage_phase (s : State) (w h : Nat) : (vblurStage w h s).phase = s.phase := rfl
@[simp] theorem State.vblurStage_src (s : State) (w h : Nat) : (vblurStage w h s).src = s.src := rfl
@[simp] theorem State.vblurStage_dst (s : State) (w h : Nat) : (vblurStage w h s).dst = s.dst := rfl
@[simp] theorem State.vblurStage_bp (s : State) (w h : Nat) : (vblurStage w h s).bp = s.bp := rfl
@[simp] theorem State.vblurStage_hb (s : State) (w h : Nat) : (vblurStage w h s).hb = s.hb := rfl
@[simp] theorem State.vblurStage_vb (s : State) (w h : Nat) : (vblurStage w h s).vb = vblur w h s.hb := rfl
@[simp] theorem State.vblurStage_capPixels (s : State) (w h : Nat) : (vblurStage w h s).capPixels = s.capPixels := rfl
@[simp] theorem State.vblurStage_instanceNo (s : State) (w h : Nat) : (vblurStage w h s).instanceNo = s.instanceNo := rfl
@[simp] theorem State.vblurStage_draws (s : State) (w h : Nat) : (vblurStage w h s).draws = s.draws := rfl
@[simp] theorem State.vblurStage_hostQueue (s : State) (w h : Nat) : (vblurStage w h s).hostQueue = s.hostQueue := rfl
@[simp] theorem State.vblurStage_hostReplies (s : State) (w h : Nat) : (vblurStage w h s).hostReplies = s.hostReplies := rfl

end Sys2Proof.Machine
end

