-- ==== Sys2Proof/Laws/Command.lean ====
section
/-! SUPPORT. What a command can do: the frame's cases and completion, each body's answer, and exec as the frame over a
body. -/

namespace Sys2Proof.Machine

/-! ### The frame (R89) -/

/-- Everything a command that answers a next state can have done. -/
theorem runCommand_next {b : Nat} {body : Nat → Nat → State → Option State} {w h : Int} {n : Nat} {s t : State}
    (hr : runCommand b body w h n s = .next t) :
    (∃ e, checkCommand n w h b s.capPixels = some e ∧ t = s.raise e) ∨
    (checkCommand n w h b s.capPixels = none ∧
      ∃ u, body w.toNat h.toNat s = some u ∧ t = u.publish (outLength (w.toNat * h.toNat))) := by
  unfold runCommand at hr
  split at hr
  · next e he => exact .inl ⟨e, he, by simpa using hr.symm⟩
  · next hc =>
    refine .inr ⟨hc, ?_⟩
    unfold publishOrFault at hr
    split at hr
    · next u hu => exact ⟨u, hu, by simpa using hr.symm⟩
    · simp at hr

/-- A command that is rejected by its checks. -/
theorem runCommand_raises {b : Nat} {body : Nat → Nat → State → Option State} {w h : Int} {n : Nat} {s : State} {e : Exc}
    (hc : checkCommand n w h b s.capPixels = some e) : runCommand b body w h n s = .next (s.raise e) := by
  simp [runCommand, hc]

/-- A command that passes its checks publishes its body's state. -/
theorem runCommand_publishes {b : Nat} {body : Nat → Nat → State → Option State} {w h : Int} {n : Nat} {s u : State}
    (hc : checkCommand n w h b s.capPixels = none) (hb : body w.toNat h.toNat s = some u) :
    runCommand b body w h n s = .next (u.publish (outLength (w.toNat * h.toNat))) := by
  simp [runCommand, publishOrFault, hc, hb]

/-- A command that passes its checks and reads a byte nothing has written faults. -/
theorem runCommand_faults {b : Nat} {body : Nat → Nat → State → Option State} {w h : Int} {n : Nat} {s : State}
    (hc : checkCommand n w h b s.capPixels = none) (hb : body w.toNat h.toNat s = none) :
    runCommand b body w h n s = .fault .srcUnwritten := by
  simp [runCommand, publishOrFault, hc, hb]

/-- The pixel count of a valid command as a natural number. -/
theorem pixels_of_valid {w h : Int} (hw : 0 < w) (hh : 0 < h) : ((w.toNat * h.toNat : Nat) : Int) = w * h := by
  rw [Int.natCast_mul, Int.toNat_of_nonneg hw.le, Int.toNat_of_nonneg hh.le]

/-- The input length of a valid command in terms of its pixel count. -/
theorem len_of_valid {w h : Int} {n b : Nat} (hv : validate n w h b = true) : n = w.toNat * h.toNat * b := by
  obtain ⟨hw, hh, hn⟩ := validate_iff.1 hv
  rw [← pixels_of_valid hw hh] at hn
  exact_mod_cast hn

/-! ### The bodies -/

/-- The body of a command, by its opcode. -/
def bodyOf (op : BitVec 2) : Nat → Nat → State → Option State :=
  match op with
  | 0#2 => grayBody
  | 1#2 => negBody
  | 2#2 => lumagrayBody
  | 3#2 => bloomBody

/-- Every command is the frame over its body. -/
theorem exec_eq_runCommand (i : Instr) (s : State) :
    exec i s = runCommand (bpp i.op) (bodyOf i.op) i.width i.height i.len s := by
  cases i <;> rfl

theorem grayBody_eq_some {w h : Nat} {s u : State} :
    grayBody w h s = some u ↔ ∃ px, decodePacked4 s.src (w * h) = some px ∧ u = s.storePixels (px.map grayPixel) := by
  simp [grayBody, eq_comm]

theorem negBody_eq_some {w h : Nat} {s u : State} :
    negBody w h s = some u ↔ ∃ px, decodePacked4 s.src (w * h) = some px ∧ u = s.storePixels (px.map negPixel) := by
  simp [negBody, eq_comm]

theorem lumagrayBody_eq_some {w h : Nat} {s u : State} :
    lumagrayBody w h s = some u ↔
      ∃ ys, decodeLumaPlane s.src (w * h) = some ys ∧ u = s.storePixels (ys.map lumagrayPixel) := by
  simp [lumagrayBody, eq_comm]

/-- The planes and the pixels of a BLOOM that runs. -/
theorem bloomBody_eq_some {w h : Nat} {s u : State} :
    bloomBody w h s = some u ↔ ∃ px, decodePacked4 s.src (w * h) = some px ∧
      u = (vblurStage w h (hblurStage w h { s with bp := px.map brightPixel })).storePixels
        (List.zipWith recombinePixel px (blur2 w h (px.map brightPixel))) := by
  unfold bloomBody brightStage recombineStage
  cases hd : decodePacked4 s.src (w * h) with
  | none => simp
  | some px => simp [hd, blur2, eq_comm]

/-- What every body leaves alone, and what it stores: `w × h` pixels at the front of DST. -/
theorem bodyOf_stores {op : BitVec 2} {w h : Nat} {s u : State} (hb : bodyOf op w h s = some u) :
    ∃ bp hb' vb ps, ps.length = w * h ∧ (op ≠ 3 → bp = s.bp ∧ hb' = s.hb ∧ vb = s.vb) ∧
      u = { s with bp := bp, hb := hb', vb := vb, dst := encodePacked4 s.dst ps } := by
  unfold bodyOf at hb
  split at hb
  · obtain ⟨px, hd, rfl⟩ := grayBody_eq_some.1 hb
    exact ⟨s.bp, s.hb, s.vb, px.map grayPixel, by simpa using (decodePacked4_eq_some.1 hd).1, by simp, rfl⟩
  · obtain ⟨px, hd, rfl⟩ := negBody_eq_some.1 hb
    exact ⟨s.bp, s.hb, s.vb, px.map negPixel, by simpa using (decodePacked4_eq_some.1 hd).1, by simp, rfl⟩
  · obtain ⟨ys, hd, rfl⟩ := lumagrayBody_eq_some.1 hb
    exact ⟨s.bp, s.hb, s.vb, ys.map lumagrayPixel, by simpa using (decodeLumaPlane_eq_some.1 hd).1, by simp, rfl⟩
  · obtain ⟨px, hd, rfl⟩ := bloomBody_eq_some.1 hb
    refine ⟨_, _, _, List.zipWith recombinePixel px (blur2 w h (px.map brightPixel)), ?_, by simp, rfl⟩
    simp [(decodePacked4_eq_some.1 hd).1, blur2, vblur]

/-- A body answers when every byte its command reads has been written. -/
theorem bodyOf_isSome {op : BitVec 2} {w h : Nat} {s : State} (hs : s.src.writtenTo (bpp op * (w * h))) :
    ∃ u, bodyOf op w h s = some u := by
  unfold bodyOf
  split
  · obtain ⟨px, hp⟩ := decodePacked4_isSome (m := s.src) (n := w * h) (fun i hi => hs i (by simpa [bpp, bppPacked4] using hi))
    exact ⟨_, grayBody_eq_some.2 ⟨px, hp, rfl⟩⟩
  · obtain ⟨px, hp⟩ := decodePacked4_isSome (m := s.src) (n := w * h) (fun i hi => hs i (by simpa [bpp, bppPacked4] using hi))
    exact ⟨_, negBody_eq_some.2 ⟨px, hp, rfl⟩⟩
  · obtain ⟨ys, hp⟩ := decodeLumaPlane_isSome (m := s.src) (n := w * h) (fun i hi => hs i (by simpa [bpp, bppLumaPlane] using hi))
    exact ⟨_, lumagrayBody_eq_some.2 ⟨ys, hp, rfl⟩⟩
  · obtain ⟨px, hp⟩ := decodePacked4_isSome (m := s.src) (n := w * h) (fun i hi => hs i (by simpa [bpp, bppPacked4] using hi))
    exact ⟨_, bloomBody_eq_some.2 ⟨px, hp, rfl⟩⟩

/-- The three ends of a command (R161), and its one fault. -/
theorem exec_cases (i : Instr) (s : State) :
    (∃ e, checkCommand i.len i.width i.height (bpp i.op) s.capPixels = some e ∧ exec i s = .next (s.raise e)) ∨
    (checkCommand i.len i.width i.height (bpp i.op) s.capPixels = none ∧
      ((∃ u, bodyOf i.op i.width.toNat i.height.toNat s = some u ∧
          exec i s = .next (u.publish (outLength (i.width.toNat * i.height.toNat)))) ∨
        (bodyOf i.op i.width.toNat i.height.toNat s = none ∧ exec i s = .fault .srcUnwritten))) := by
  rw [exec_eq_runCommand]
  cases hc : checkCommand i.len i.width i.height (bpp i.op) s.capPixels with
  | some e => exact .inl ⟨e, rfl, runCommand_raises hc⟩
  | none =>
    refine .inr ⟨rfl, ?_⟩
    cases hb : bodyOf i.op i.width.toNat i.height.toNat s with
    | some u => exact .inl ⟨u, rfl, runCommand_publishes hc hb⟩
    | none => exact .inr ⟨rfl, runCommand_faults hc hb⟩

end Sys2Proof.Machine
end

