-- ==== Sys2Proof/Laws/PerInstr.lean ====
section
/-! SUPPORT. The per-command family OpField: the op field of a command's word (30_encoding.md R50, R51). -/

namespace Sys2Proof.Laws.OpField

/-- Bits [1:0] of the command word are the opcode R51 gives the command's mnemonic. -/
def Statement (i : Instr) : Prop :=
  (encode i).op = (match i with | .gray _ _ _ => 0 | .neg _ _ _ => 1 | .lumagray _ _ _ => 2 | .bloom _ _ _ => 3)

theorem gray (width height : Int) (len : Nat) : Statement (.gray width height len) := CmdWord.pack_op _ _ _ _
theorem neg (width height : Int) (len : Nat) : Statement (.neg width height len) := CmdWord.pack_op _ _ _ _
theorem lumagray (width height : Int) (len : Nat) : Statement (.lumagray width height len) := CmdWord.pack_op _ _ _ _
theorem bloom (width height : Int) (len : Nat) : Statement (.bloom width height len) := CmdWord.pack_op _ _ _ _

end Sys2Proof.Laws.OpField
end

