-- ==== Sys2Proof/Laws/Step.lean ====
section
/-! SUPPORT. What a step can do: the engine's, the host's, and the arbiter's cases. -/

namespace Sys2Proof.Machine

/-! ### The arbiter -/

theorem step_of_no_host {s : State} (h : s.hostQueue = []) : step s = engineStep s := by
  simp [step, advance, h]

theorem step_of_host {s : State} {a : HostAction} {rest : List HostAction} (h : s.hostQueue = a :: rest) :
    step s = if engineFirst s a then engineStep s.chosen else hostAct a s.chosen.popHost := by
  simp [step, advance, h]

/-- Everything a step can be: the engine's with nothing pending, the engine's before a pending action of a busy block, or
the host's next action. -/
theorem step_cases (s : State) :
    (s.hostQueue = [] ∧ step s = engineStep s) ∨
    (s.hostQueue ≠ [] ∧ s.busy = true ∧ step s = engineStep s.chosen) ∨
    (∃ a rest, s.hostQueue = a :: rest ∧ step s = hostAct a s.chosen.popHost) := by
  cases hq : s.hostQueue with
  | nil => exact .inl ⟨rfl, step_of_no_host hq⟩
  | cons a rest =>
    rw [step_of_host hq]
    by_cases he : engineFirst s a = true
    · refine .inr (.inl ⟨by simp, ?_, by simp [he]⟩)
      simp only [engineFirst, Bool.and_eq_true] at he
      exact he.1
    · exact .inr (.inr ⟨a, rest, rfl, by simp [he]⟩)

/-- A block that is not busy takes the host's next action. -/
theorem step_of_host_idle {s : State} {a : HostAction} {rest : List HostAction} (h : s.hostQueue = a :: rest)
    (hb : s.busy = false) : step s = hostAct a s.chosen.popHost := by
  rw [step_of_host h]
  simp [engineFirst, hb]

/-! ### Host accesses -/

theorem regAccess_next {offset size : Nat} {k : HostReg → State} {t : State} (h : regAccess offset size k = .next t) :
    size = 4 ∧ ∃ r, regAt offset = some r ∧ t = k r := by
  unfold regAccess at h
  split at h
  · next hs =>
    split at h
    · next r hr => exact ⟨hs, r, hr, by simpa using h.symm⟩
    · simp at h
  · simp at h

theorem bufAccess_next {s t u : State} {index size : Nat} (h : bufAccess s index size u = .next t) :
    size = 1 ∧ index < s.bufBytes ∧ t = u := by
  unfold bufAccess at h
  split at h
  · next hs =>
    split at h
    · next hi => exact ⟨hs, hi, by simpa using h.symm⟩
    · simp at h
  · simp at h

/-- The offsets of R11 and R15 to R17 name their registers. -/
@[simp] theorem regAt_offset (r : HostReg) : regAt r.offset = some r := by cases r <;> rfl

/-- Nothing but those seven offsets names a register. -/
theorem regAt_eq_some {offset : Nat} {r : HostReg} (h : regAt offset = some r) : offset = r.offset := by
  unfold regAt at h
  split at h <;> simp_all <;> subst h <;> rfl

/-- A read hands the host one value and changes at most the draws made. -/
theorem readSrc_frame (s : State) (index : Nat) :
    ∃ v d, s.readSrc index = { s with draws := d, hostReplies := .src index v :: s.hostReplies } := by
  unfold State.readSrc State.replyFree
  split
  · exact ⟨_, _, rfl⟩
  · split
    · exact ⟨_, s.draws, rfl⟩
    · exact ⟨_, _, rfl⟩

theorem readDst_frame (s : State) (index : Nat) :
    ∃ v d, s.readDst index = { s with draws := d, hostReplies := .dst index v :: s.hostReplies } := by
  unfold State.readDst State.replyFree
  split
  · split
    · exact ⟨_, s.draws, rfl⟩
    · exact ⟨_, _, rfl⟩
  · exact ⟨_, _, rfl⟩

/-- A write that the busy gate drops (R154). -/
theorem operandWrite_cases (s t : State) (p : Prop)
    (ht : ∃ o w h l, t = { s with op := o, width := w, height := h, len := l }) :
    (if s.writesLand then t else s) = s ∨ p ∨
      (s.busy = false ∧ ∃ o w h l, (if s.writesLand then t else s) = { s with op := o, width := w, height := h, len := l }) := by
  by_cases hb : s.writesLand = true
  · rw [if_pos hb]
    exact .inr (.inr ⟨by simpa [State.writesLand] using hb, ht⟩)
  · exact .inl (if_neg hb)

/-- What a register write can do: nothing, start a command, or set one operand register of a block that is not busy. -/
theorem writeReg_cases (s : State) (r : HostReg) (v : Word) :
    s.writeReg r v = s ∨
    (r = .ctrl ∧ v.getLsbD 0 = true ∧ s.busy = false ∧ s.fatal = false ∧ s.writeReg r v = s.launch) ∨
    (s.busy = false ∧ ∃ o w h l, s.writeReg r v = { s with op := o, width := w, height := h, len := l }) := by
  cases r with
  | ctrl =>
    simp only [State.writeReg, State.writeCtrl]
    by_cases h : (v.getLsbD 0 && s.startAccepted) = true
    · rw [if_pos h]
      simp only [State.startAccepted, Bool.and_eq_true, Bool.not_eq_true'] at h
      exact .inr (.inl ⟨trivial, h.1, h.2.1, h.2.2, rfl⟩)
    · exact .inl (if_neg h)
  | status => exact .inl rfl
  | outLen => exact .inl rfl
  | op => exact operandWrite_cases s _ _ ⟨_, s.width, s.height, s.len, rfl⟩
  | width => exact operandWrite_cases s _ _ ⟨s.op, _, s.height, s.len, rfl⟩
  | height => exact operandWrite_cases s _ _ ⟨s.op, s.width, _, s.len, rfl⟩
  | len => exact operandWrite_cases s _ _ ⟨s.op, s.width, s.height, _, rfl⟩

/-- Everything a host action that answers a next state can have done to the block. -/
theorem hostAct_next {a : HostAction} {s t : State} (h : hostAct a s = .next t) :
    (∃ q d r, t = { s with hostQueue := q, draws := d, hostReplies := r }) ∨
    (t = s.launch ∧ s.busy = false ∧ s.fatal = false ∧
      ∃ v, a = .regWrite 0 4 v ∧ v.getLsbD 0 = true) ∨
    (s.busy = false ∧ ∃ o w k l, t = { s with op := o, width := w, height := k, len := l }) ∨
    (s.busy = false ∧ ∃ index v, index < s.bufBytes ∧ t = { s with src := s.src.write index v }) ∨
    (a = .reset ∧ t = s.afterReset) := by
  cases a with
  | regWrite offset size v =>
    obtain ⟨hs, r, hr, rfl⟩ := regAccess_next h
    subst hs
    rcases writeReg_cases s r v with hw | ⟨hrc, hv, hb, hf, hw⟩ | ⟨hb, o, w, k, l, hw⟩
    · rw [hw]; exact .inl ⟨s.hostQueue, s.draws, s.hostReplies, rfl⟩
    · subst hrc
      have := regAt_eq_some hr
      simp only [HostReg.offset] at this
      subst this
      rw [hw]; exact .inr (.inl ⟨rfl, hb, hf, v, rfl, hv⟩)
    · rw [hw]; exact .inr (.inr (.inl ⟨hb, o, w, k, l, rfl⟩))
  | regRead offset size =>
    obtain ⟨-, r, -, rfl⟩ := regAccess_next h
    exact .inl ⟨s.hostQueue, s.draws, _, rfl⟩
  | srcWrite index size v =>
    obtain ⟨-, hi, rfl⟩ := bufAccess_next h
    unfold State.writeSrc
    by_cases hb : s.writesLand = true
    · rw [if_pos hb]
      exact .inr (.inr (.inr (.inl ⟨by simpa [State.writesLand] using hb, index, v, hi, rfl⟩)))
    · rw [if_neg hb]
      exact .inl ⟨s.hostQueue, s.draws, s.hostReplies, rfl⟩
  | srcRead index size =>
    obtain ⟨-, -, rfl⟩ := bufAccess_next h
    obtain ⟨v, d, hv⟩ := readSrc_frame s index
    exact .inl ⟨s.hostQueue, d, _, hv⟩
  | dstWrite index size v =>
    obtain ⟨-, -, ht⟩ := bufAccess_next h
    exact .inl ⟨s.hostQueue, s.draws, s.hostReplies, ht⟩
  | dstRead index size =>
    obtain ⟨-, -, rfl⟩ := bufAccess_next h
    obtain ⟨v, d, hv⟩ := readDst_frame s index
    exact .inl ⟨s.hostQueue, d, _, hv⟩
  | collect =>
    simp only [hostAct, Host.Outcome.next.injEq] at h
    exact .inl ⟨_, s.draws, s.hostReplies, h.symm⟩
  | wait =>
    simp only [hostAct, Host.Outcome.next.injEq] at h
    exact .inl ⟨s.hostQueue, s.draws, s.hostReplies, h.symm⟩
  | reset =>
    simp only [hostAct, Host.Outcome.next.injEq] at h
    exact .inr (.inr (.inr (.inr ⟨rfl, h.symm⟩)))

/-! ### The engine -/

theorem engineStep_check {s : State} (h : s.phase = .check) : engineStep s = exec s.fetch s := by
  simp [engineStep, h]

theorem engineStep_of_ne_check {s : State} (h : s.phase ≠ .check) : engineStep s = tick s := by
  unfold engineStep
  split
  · next hc => exact absurd hc h
  · rfl

theorem publishOrFault_next {n : Nat} {o : Option State} {t : State} (h : publishOrFault n o = .next t) :
    ∃ u, o = some u ∧ t = u.publish (outLength n) := by
  cases o with
  | none => simp [publishOrFault] at h
  | some u => exact ⟨u, rfl, by simpa [publishOrFault] using h.symm⟩

theorem nextOrFault_next {o : Option State} {t : State} (h : nextOrFault o = .next t) : o = some t := by
  cases o with
  | none => simp [nextOrFault] at h
  | some u => simpa [nextOrFault] using h

/-! ### The phases -/

theorem tick_idle {s : State} (h : s.phase = .idle) : tick s = .next s := by simp [tick, h]

theorem tick_check {s : State} (h : s.phase = .check) : tick s = .next (checkPhase s) := by simp [tick, h]

theorem tick_point {s : State} (h : s.phase = .point) : tick s = pointPhase s := by simp [tick, h]

theorem tick_bright {s : State} (h : s.phase = .bright) :
    tick s = nextOrFault ((brightStage s.cmd.columns s.cmd.rows s).map fun t => t.enter .hblur) := by simp [tick, h]

theorem tick_hblur {s : State} (h : s.phase = .hblur) :
    tick s = .next ((hblurStage s.cmd.columns s.cmd.rows s).enter .vblur) := by simp [tick, h]

theorem tick_vblur {s : State} (h : s.phase = .vblur) :
    tick s = .next ((vblurStage s.cmd.columns s.cmd.rows s).enter .recomb) := by simp [tick, h]

theorem tick_recomb {s : State} (h : s.phase = .recomb) :
    tick s = publishOrFault (s.cmd.columns * s.cmd.rows) (recombineStage s.cmd.columns s.cmd.rows s) := by simp [tick, h]

theorem tick_halt {s : State} (h : s.phase = .halt) : tick s = .fault .halted := by simp [tick, h]

/-- POINT runs the body of a point filter, never BLOOM's. -/
theorem pointPhase_next {s t : State} (h : pointPhase s = .next t) :
    s.fetch.op ≠ 3 ∧ ∃ u, bodyOf s.fetch.op s.fetch.width.toNat s.fetch.height.toNat s = some u ∧
      t = u.publish (outLength (s.fetch.width.toNat * s.fetch.height.toNat)) := by
  unfold pointPhase at h
  split at h
  · next hf => obtain ⟨u, hu, rfl⟩ := publishOrFault_next h; rw [hf]; exact ⟨by simp [Instr.op], u, hu, rfl⟩
  · next hf => obtain ⟨u, hu, rfl⟩ := publishOrFault_next h; rw [hf]; exact ⟨by simp [Instr.op], u, hu, rfl⟩
  · next hf => obtain ⟨u, hu, rfl⟩ := publishOrFault_next h; rw [hf]; exact ⟨by simp [Instr.op], u, hu, rfl⟩
  · simp at h

theorem brightStage_eq_some {w h : Nat} {s t : State} :
    brightStage w h s = some t ↔
      ∃ px, decodePacked4 s.src (w * h) = some px ∧ t = { s with bp := px.map brightPixel } := by
  simp [brightStage, eq_comm]

theorem recombineStage_eq_some {w h : Nat} {s t : State} :
    recombineStage w h s = some t ↔
      ∃ px, decodePacked4 s.src (w * h) = some px ∧ t = s.storePixels (List.zipWith recombinePixel px s.vb) := by
  simp [recombineStage, eq_comm]

/-- Everything one phase that answers a next state can have done. -/
theorem tick_next {s t : State} (h : tick s = .next t) :
    (s.phase = .idle ∧ t = s) ∨
    (s.phase = .check ∧ t = checkPhase s) ∨
    (s.phase = .point ∧ s.fetch.op ≠ 3 ∧
      ∃ u, bodyOf s.fetch.op s.fetch.width.toNat s.fetch.height.toNat s = some u ∧
        t = u.publish (outLength (s.fetch.width.toNat * s.fetch.height.toNat))) ∨
    (s.phase = .bright ∧ ∃ px, decodePacked4 s.src (s.cmd.columns * s.cmd.rows) = some px ∧
      t = State.enter { s with bp := px.map brightPixel } .hblur) ∨
    (s.phase = .hblur ∧ t = (hblurStage s.cmd.columns s.cmd.rows s).enter .vblur) ∨
    (s.phase = .vblur ∧ t = (vblurStage s.cmd.columns s.cmd.rows s).enter .recomb) ∨
    (s.phase = .recomb ∧ ∃ px, decodePacked4 s.src (s.cmd.columns * s.cmd.rows) = some px ∧
      t = (s.storePixels (List.zipWith recombinePixel px s.vb)).publish (outLength (s.cmd.columns * s.cmd.rows))) := by
  cases hp : s.phase with
  | idle => rw [tick_idle hp] at h; simp_all
  | check => rw [tick_check hp] at h; simp_all
  | point => rw [tick_point hp] at h; simpa using pointPhase_next h
  | bright =>
    rw [tick_bright hp] at h
    obtain ⟨u, hu, rfl⟩ := Option.map_eq_some_iff.1 (nextOrFault_next h)
    obtain ⟨px, hd, rfl⟩ := brightStage_eq_some.1 hu
    exact .inr (.inr (.inr (.inl ⟨rfl, px, hd, rfl⟩)))
  | hblur => rw [tick_hblur hp] at h; simp_all
  | vblur => rw [tick_vblur hp] at h; simp_all
  | recomb =>
    rw [tick_recomb hp] at h
    obtain ⟨u, hu, rfl⟩ := publishOrFault_next h
    obtain ⟨px, hd, rfl⟩ := recombineStage_eq_some.1 hu
    simp [hd]
  | halt => rw [tick_halt hp] at h; simp at h

end Sys2Proof.Machine
end

