-- ==== Sys2Proof/Tests/Slice0.lean ====
section
/-! SUPPORT. The model's own tests, and for every statement with hypotheses a state and operands that meet them.
Expected results are those of 95_test_vectors.md, named by their ids there. -/

namespace Sys2Proof.Tests

open Sys2Proof Sys2Proof.Machine

/-! ### Helpers -/

/-- A block of the given capacity after reset, with bytes in SRC from index 0. -/
def loaded (cap : Nat) (bytes : List Byte) : State :=
  { State.reset with capPixels := cap, src := Memory.writeBytes [] 0 bytes }

/-- The same block with a command just started. -/
def started (i : Instr) (cap : Nat) (bytes : List Byte) : State := (loaded cap bytes).launchWord (encode i)

/-- The DST bytes and OUT_LEN after a command, when it answers a next state. -/
def resultOf (o : Host.Outcome State Fault Refusal) : Option (Nat × List Byte) :=
  match o with
  | .next t => some (t.outLen.toNat, t.dst.map Prod.snd)
  | .fault _ => none
  | .refused _ => none

/-- A plane whose three channels are equal. -/
def redOf (p : List Triple) : List Nat := p.map fun v => v.r.toNat

/-! ### WellFormed: an ill-formed command for each check -/

theorem test_wellFormed_accepts_the_ends_of_the_ranges :
    WellFormed (.gray (-2147483648) 2147483647 4294967295) ∧ WellFormed (.neg 2147483647 (-2147483648) 0) ∧
    WellFormed (.lumagray 0 0 0) ∧ WellFormed (.bloom 3 3 36) := by decide

theorem test_wellFormed_refuses_width_above : ¬ WellFormed (.gray 2147483648 1 4) := by decide
theorem test_wellFormed_refuses_width_below : ¬ WellFormed (.neg (-2147483649) 1 4) := by decide
theorem test_wellFormed_refuses_height_above : ¬ WellFormed (.lumagray 1 2147483648 1) := by decide
theorem test_wellFormed_refuses_height_below : ¬ WellFormed (.bloom 1 (-2147483649) 4) := by decide
theorem test_wellFormed_refuses_len_above : ¬ WellFormed (.gray 1 1 4294967296) := by decide

theorem test_wellFormed_checks_every_command :
    ¬ WellFormed (.neg 1 2147483648 4) ∧ ¬ WellFormed (.neg 1 1 4294967296) ∧
    ¬ WellFormed (.lumagray 2147483648 1 1) ∧ ¬ WellFormed (.lumagray 1 1 4294967296) ∧
    ¬ WellFormed (.bloom 2147483648 1 4) ∧ ¬ WellFormed (.bloom 1 1 4294967296) ∧
    ¬ WellFormed (.gray 1 2147483648 4) := by decide

/-! ### Decoding: words written out field by field from R50 (op, width, height, len, lowest first) -/

/-- GRAY w=2 h=2 len=16: op 00, width 2, height 2, len 16. -/
theorem test_decode_gray :
    decodeTableWord 98 (0b00 + 2 * 2 ^ 2 + 2 * 2 ^ 34 + 16 * 2 ^ 66) = some (.gray 2 2 16) ∧
    (encode (.gray 2 2 16)).toNat = 0x0000000400000000800000008 := by decide

/-- NEG w=−1 h=−4 len=16: op 01, width 0xFFFFFFFF, height 0xFFFFFFFC, len 16. -/
theorem test_decode_neg :
    decodeTableWord 98 (0b01 + 0xFFFFFFFF * 2 ^ 2 + 0xFFFFFFFC * 2 ^ 34 + 16 * 2 ^ 66) = some (.neg (-1) (-4) 16) ∧
    (encode (.neg (-1) (-4) 16)).toNat = 0x000000043FFFFFFF3FFFFFFFD := by decide

/-- LUMAGRAY w=3 h=1 len=11: op 10. -/
theorem test_decode_lumagray :
    decodeTableWord 98 (0b10 + 3 * 2 ^ 2 + 1 * 2 ^ 34 + 11 * 2 ^ 66) = some (.lumagray 3 1 11) ∧
    (encode (.lumagray 3 1 11)).toNat = 0x00000002C000000040000000E := by decide

/-- BLOOM w=3 h=2 len=24: op 11. -/
theorem test_decode_bloom :
    decodeTableWord 98 (0b11 + 3 * 2 ^ 2 + 2 * 2 ^ 34 + 24 * 2 ^ 66) = some (.bloom 3 2 24) ∧
    (encode (.bloom 3 2 24)).toNat = 0x000000060000000080000000F := by decide

/-- WIDTH 0x80000000 is −2^31 (V-V18), and LEN 0xFFFFFFFF is 2^32 − 1. -/
theorem test_decode_sign_and_zero_extension :
    decodeTableWord 98 (0x80000000 * 2 ^ 2 + 1 * 2 ^ 34 + 0xFFFFFFFF * 2 ^ 66) =
      some (.gray (-2147483648) 1 4294967295) := by decide

theorem test_decode_refuses_short_and_padded :
    decodeTableWord 104 (2 ^ 98) = none ∧ decode (List.replicate 12 0) = .error .tooShort := ⟨by decide, rfl⟩

/-- R58's example of the notation. -/
theorem test_text : (Instr.bloom 3 3 36).text = "BLOOM w=3 h=3 len=36" := by decide

/-! ### One command each -/

/-- S1. -/
theorem test_gray_scenario :
    resultOf (exec (.gray 2 2 16) (loaded 4 [0, 0, 0xFF, 0xFF, 0, 0, 0, 0xFF, 0, 0, 0, 0xFF, 0, 0, 0, 0xFF])) =
      some (16, [0x4C, 0x4C, 0x4C, 0xFF, 0, 0, 0, 0xFF, 0, 0, 0, 0xFF, 0, 0, 0, 0xFF]) := by decide

/-- V-P4, through step: the placed command runs next. -/
theorem test_gray_one_pixel_step :
    resultOf (step ((loaded 1 [0x00, 0xFF, 0x00, 0x07]).withFetchWord 98 (1 * 2 ^ 2 + 1 * 2 ^ 34 + 4 * 2 ^ 66))) =
      some (4, [0x95, 0x95, 0x95, 0x07]) := by decide

/-- V-P2. -/
theorem test_neg_one_pixel :
    resultOf (exec (.neg 1 1 4) (loaded 1 [0x43, 0x2D, 0x7B, 0x80])) = some (4, [0xBC, 0xD2, 0x84, 0x80]) := by decide

/-- V-P7. -/
theorem test_neg_two_pixels :
    resultOf (exec (.neg 2 1 8) (loaded 4 [0x12, 0x34, 0x56, 0x78, 0x00, 0xFF, 0x80, 0x01])) =
      some (8, [0xED, 0xCB, 0xA9, 0x78, 0xFF, 0x00, 0x7F, 0x01]) := by decide

/-- V-Y1. -/
theorem test_lumagray :
    resultOf (exec (.lumagray 3 1 3) (loaded 9 [0x00, 0x80, 0xFF])) =
      some (12, [0, 0, 0, 0xFF, 0x80, 0x80, 0x80, 0xFF, 0xFF, 0xFF, 0xFF, 0xFF]) := by decide

/-- V-Y3: a Packed4-sized buffer is rejected, and SRC is not read (it holds nothing). -/
theorem test_lumagray_rejects_packed4_length :
    resultOf (exec (.lumagray 3 1 12) (loaded 9 [])) = some (0, []) := by decide

/-- V-B11: 2×2, every stage counts. -/
theorem test_bloom_2x2 :
    resultOf (exec (.bloom 2 2 16)
      (loaded 4 [0xFF, 0xFF, 0xFF, 0xFF, 0, 0, 0, 1, 0, 0, 0, 2, 0x32, 0xFA, 0xC8, 0x03])) =
      some (16, [0xFF, 0xFF, 0xFF, 0xFF, 0x49, 0x79, 0x6D, 1, 0x49, 0x79, 0x6D, 2, 0x6C, 0xFF, 0xFF, 0x03]) := by decide

/-- V-B13 with width 3 and height 2: rows are `width` pixels long. -/
theorem test_bloom_3x2 :
    resultOf (exec (.bloom 3 2 24) (loaded 6 ([0xFF, 0xFF, 0xFF, 0xFF] ++ (List.replicate 5 [0, 0, 0, 0xFF]).flatten))) =
      some (24, [0xFF, 0xFF, 0xFF, 0xFF, 0x3D, 0x3D, 0x3D, 0xFF, 0x1E, 0x1E, 0x1E, 0xFF,
        0x3D, 0x3D, 0x3D, 0xFF, 0x28, 0x28, 0x28, 0xFF, 0x14, 0x14, 0x14, 0xFF]) := by decide

/-! ### The host notation -/

/-- R58's expansion of CALL, bytes that fit and bytes that do not (the LDSRC step is left out). -/
theorem test_call_expands :
    call 2 1 1 [0x64] 4 = some [.srcWrite 0 1 0x64, .regWrite 0x08 4 2, .regWrite 0x0C 4 1, .regWrite 0x10 4 1,
      .regWrite 0x14 4 1, .regWrite 0x00 4 1, .wait, .regRead 0x04 4, .regRead 0x18 4, .collect] ∧
    call 0 1 (-1) [1, 2, 3, 4, 5] 4 = some [.regWrite 0x08 4 0, .regWrite 0x0C 4 1, .regWrite 0x10 4 0xFFFFFFFF,
      .regWrite 0x14 4 5, .regWrite 0x00 4 1, .wait, .regRead 0x04 4, .regRead 0x18 4, .collect] := by decide

/-- R58: a width or height outside s32 cannot be expressed; the ends of the range can. -/
theorem test_call_outside_the_registers :
    call 0 2147483648 1 [] 4 = none ∧ call 0 1 (-2147483649) [] 4 = none ∧
    (call 0 2147483647 (-2147483648) [] 4).isSome = true := by decide

/-! ### The primitives -/

/-- V-V1, V-V3, V-V5, V-V6, V-V8, V-V12, V-V13, V-V17, V-V18. -/
theorem test_validate :
    validate 16 2 2 4 = true ∧ validate 11 3 1 4 = false ∧ validate 3 3 1 1 = true ∧ validate 12 3 1 1 = false ∧
    validate 0 0 0 4 = false ∧ validate 16 (-1) (-4) 4 = false ∧ validate 0 65536 65536 4 = false ∧
    validate 4294967292 1073741823 1 4 = true ∧ validate 4 (-2147483648) 1 4 = false := by decide

/-- V-C7, V-C8, V-L6, V-L7, V-L9, V-L10. -/
theorem test_clamp8_and_luma8 :
    [-1000, -1, 0, 1, 254, 255, 256, 510, 100000].map clamp8 = [0, 0, 0, 1, 254, 255, 255, 255, 255] ∧
    luma8 3 0 0 = 0 ∧ luma8 4 0 0 = 1 ∧ luma8 0 1 0 = 0 ∧ luma8 0 2 0 = 1 ∧ luma8 0 0 8 = 0 ∧ luma8 0 0 9 = 1 ∧
    luma8 50 252 159 = 181 ∧ luma8 1 1 1 = 1 := by decide

/-- V-T5, V-T6, V-T8, V-T10, V-T11. -/
theorem test_taps :
    [-2, -1, 0, 1, 2].map (tap 3 1) = [0, 0, 1, 2, 2] ∧ [-2, -1, 0, 1, 2].map (tap 3 2) = [0, 1, 2, 2, 2] ∧
    [-2, -1, 0, 1, 2].map (tap 7 1) = [0, 0, 1, 2, 3] ∧ [-2, -1, 0, 1, 2].map (tap 7 5) = [3, 4, 5, 6, 6] ∧
    [-2, -1, 0, 1, 2].map (tap 7 6) = [4, 5, 6, 6, 6] := by decide

/-- V-H1, V-H2, V-H9, V-H10, V-H16. -/
theorem test_blur_passes :
    redOf (hblur 7 1 (greyPlane [10, 20, 30, 40, 50, 60, 70])) = [16, 22, 30, 40, 50, 58, 64] ∧
    redOf (hblur 5 1 (greyPlane [0, 0, 254, 0, 0])) = [50, 50, 50, 50, 50] ∧
    redOf (hblur 2 3 (greyPlane [1, 2, 3, 4, 5, 6])) = [1, 1, 3, 3, 5, 5] ∧
    redOf (vblur 2 3 (greyPlane [1, 2, 3, 4, 5, 6])) = [2, 3, 3, 4, 3, 4] ∧
    redOf (blur2 3 3 (greyPlane [255, 0, 0, 0, 0, 0, 0, 0, 0])) = [91, 61, 30, 61, 40, 20, 30, 20, 10] := by decide

/-! ### Witnesses: states and operands that meet each statement's hypotheses -/

/-- Two pixels in a block that holds exactly two: NEG's and GRAY's boundary of the capacity. -/
def two : State := loaded 2 [0x12, 0x34, 0x56, 0x78, 0x00, 0xFF, 0x80, 0x01]

/-- A block with a two-pixel result published, and the host reading STATUS next. -/
def published : State :=
  { two with
    width := 2
    height := 1
    len := 8
    op := 1
    done := true
    outLen := 8
    dst := Memory.writeBytes [] 0 [0xED, 0xCB, 0xA9, 0x78, 0xFF, 0x00, 0x7F, 0x01]
    hostQueue := [.regRead 0x04 4] }

/-- A block halted by Fatal(Capacity), and the host resetting it next. -/
def halted : State := { two with fatal := true, phase := .halt, hostQueue := [.reset] }

/-- A block running NEG on its two pixels. -/
def running : State := started (.neg 2 1 8) 2 [0x12, 0x34, 0x56, 0x78, 0x00, 0xFF, 0x80, 0x01]

theorem witness_published_inv : published.Inv :=
  ⟨by decide, by decide, by decide, by decide, by decide, by decide, by decide, by decide, by decide, by decide,
    by decide, by decide, by decide, trivial⟩

theorem witness_running_inv : running.Inv :=
  ⟨by decide, by decide, by decide, by decide, by decide, by decide, by decide, by decide, by decide, by decide,
    by decide, by decide, by decide, trivial⟩

theorem witness_halted_inv : halted.Inv :=
  ⟨by decide, by decide, by decide, by decide, by decide, by decide, by decide, by decide, by decide, by decide,
    by decide, by decide, by decide, trivial⟩

/-- ResetInputAlwaysGivesTheResetState: FATAL falls in a step; and a reset block with nothing pending. -/
theorem witness_reset_clears_fatal :
    (∃ t, step halted = .next t ∧ halted.fatal = true ∧ t.fatal = false) ∧
    two.hostQueue = [] := ⟨⟨_, rfl, rfl, rfl⟩, rfl⟩

/-- StartAfterResetIsRejected: a CTRL write with reserved bits set too. -/
theorem witness_start_after_reset : (0xFFFFFFFF : Word).getLsbD 0 = true := by decide

/-- StartIsAcceptedOnlyWhenNotBusyAndNotFatal: an accepted START, the three ways it is not, and a step that starts. -/
theorem witness_start :
    ((1 : Word).getLsbD 0 = true ∧ two.busy = false ∧ two.fatal = false) ∧
    (0xFFFFFFFE : Word).getLsbD 0 = false ∧ running.busy = true ∧ halted.fatal = true ∧
    (∃ t, step { two with hostQueue := [.regWrite 0 4 1] } = .next t ∧ two.busy = false ∧ t.busy = true) :=
  ⟨by decide, by decide, by decide, by decide, ⟨_, rfl, rfl, rfl⟩⟩

/-- OperandRegistersSurviveEveryCommand, with an end that is no Fatal, and with one that is. -/
theorem witness_operands_survive :
    (∃ t, exec (.neg 2 1 8) two = .next t ∧ t.fatal = false) ∧ (1 : Word).getLsbD 0 = true ∧
    (∃ t, exec (.bloom 3 1 12) two = .next t ∧ t.fatal = true) := ⟨⟨_, rfl, rfl⟩, by decide, ⟨_, rfl, rfl⟩⟩

/-- OperandRegistersReadBackWhatWasWritten: a block whose writes land. Its read clauses have no hypothesis. -/
theorem witness_not_busy : two.busy = false := rfl

/-- HostReadsChangeNothingInTheBlock: each kind of read, at the last index of its buffer. -/
theorem witness_host_reads :
    (∃ t, hostAct (.regRead 0x18 4) published = .next t) ∧ (∃ t, hostAct (.srcRead 7 1) two = .next t) ∧
    (∃ t, hostAct (.dstRead 7 1) published = .next t) := ⟨⟨_, rfl⟩, ⟨_, rfl⟩, ⟨_, rfl⟩⟩

/-- HostWritesAreDroppedWhileBusy: busy and not, at the last index, for each operand register's offset; a byte written
and the first one not written. -/
theorem witness_host_writes :
    (running.busy = true ∧ 7 < 4 * running.capPixels) ∧ (two.busy = false ∧ 7 < 4 * two.capPixels) ∧
    two.src.read 7 = some 0x01 ∧
    ((loaded 2 [1, 2, 3]).busy = false ∧ 3 < 4 * (loaded 2 [1, 2, 3]).capPixels ∧ (loaded 2 [1, 2, 3]).src.read 3 = none) ∧
    0x08 ∈ [0x08, 0x0C, 0x10, 0x14] ∧ 0x0C ∈ [0x08, 0x0C, 0x10, 0x14] ∧ 0x10 ∈ [0x08, 0x0C, 0x10, 0x14] ∧
    0x14 ∈ [0x08, 0x0C, 0x10, 0x14] := by decide

/-- DstReadsReturnTheResultOrAFreeValue: the last byte of a result, the first beyond it, and no result at all. -/
theorem witness_dst_reads :
    (7 < 4 * published.capPixels ∧ published.done = true ∧ 7 < published.outLen.toNat ∧
      published.dst.read 7 = some 0x01) ∧
    (4 < 4 * published.capPixels ∧ ({ published with outLen := 4 } : State).outLen.toNat ≤ 4) ∧
    (0 < 4 * running.capPixels ∧ running.done = false) := by decide

/-- UndefinedAccessesAreRefused: a byte and a double-word access, the first offset beyond the registers and one between
two, a two-byte buffer access, the first index beyond the buffer. -/
theorem witness_undefined_accesses :
    1 ≠ 4 ∧ 8 ≠ 4 ∧ 0x1C ∉ [0x00, 0x04, 0x08, 0x0C, 0x10, 0x14, 0x18] ∧
    0x02 ∉ [0x00, 0x04, 0x08, 0x0C, 0x10, 0x14, 0x18] ∧ 2 ≠ 1 ∧ 4 * two.capPixels ≤ 8 := by decide

/-- ResultStaysUntilTheNextStartOrReset: a read next, a write without START next, nothing next. -/
theorem witness_result_stays :
    published.Inv ∧ published.done = true ∧ (∃ t, step published = .next t) ∧
    (∀ a, published.hostQueue.head? = some a → a ≠ .reset ∧ ∀ v, a = .regWrite 0 4 v → v.getLsbD 0 = false) :=
  ⟨witness_published_inv, rfl, ⟨_, rfl⟩, by simp [published]⟩

/-- ValidationUsesTheExactProduct: the largest dimensions, and the smallest product that is too large. -/
theorem witness_validation :
    ((1 : Int) ≤ 2147483647 ∧ (2147483647 : Int) < 2 ^ 31 ∧ (4 ≤ 4) ∧ 4294967295 < 2 ^ 32) ∧
    ((1 : Int) ≤ 1 ∧ (1 : Int) < 2 ^ 31 ∧ (0 ≤ 4) ∧ 0 < 2 ^ 32) ∧
    (4294967295 < 2 ^ 32 ∧ (2 : Int) ^ 32 ≤ 32768 * 32768 * 4) := by decide

/-- ClampSaturatesAndNeverWraps, where the clauses meet. -/
theorem witness_clamp :
    (-1 : Int) < 0 ∧ (255 : Int) < 256 ∧ ((0 : Int) ≤ 0 ∧ (0 : Int) ≤ 255) ∧ ((0 : Int) ≤ 255 ∧ (255 : Int) ≤ 255) ∧
    clamp8 (-1) = 0 ∧ clamp8 256 = 255 ∧ clamp8 0 = 0 ∧ clamp8 255 = 255 := by decide

/-- LumaIsTheExactFloorAndMonotone. -/
theorem witness_luma :
    (179 : Byte) ≤ 180 ∧ (254 : Byte) ≤ 255 ∧ (0 : Byte) ≤ 0 ∧ luma8 179 254 0 ≤ luma8 180 255 0 := by decide

/-- DecodePacked4ReadsBlueGreenRedAlpha, the last of two pixels. -/
theorem witness_decode_packed4 : two.src.writtenTo (4 * 2) ∧ 1 < 2 ∧ two.src.holds 1 0x01 0x80 0xFF 0x00 := by decide

/-- EncodePacked4WritesBlueGreenRedAlpha: a pixel of the sequence, and the first byte it does not write. -/
theorem witness_encode_packed4 :
    [({ a := 0, r := 1, g := 2, b := 3 } : Pixel)][0]? = some { a := 0, r := 1, g := 2, b := 3 } ∧
    4 * [({ a := 0, r := 1, g := 2, b := 3 } : Pixel)].length ≤ 4 := by decide

/-- Packed4RoundTrip. -/
theorem witness_round_trip :
    decodePacked4 two.src 2 =
      some [{ a := 0x78, r := 0x56, g := 0x34, b := 0x12 }, { a := 0x01, r := 0x80, g := 0xFF, b := 0x00 }] ∧
    7 < 4 * 2 := by decide

/-- DecodeLumaPlaneReadsOneUnsignedByteAPixel. -/
theorem witness_luma_plane : two.src.writtenTo 8 ∧ 7 < 8 ∧ two.src.read 7 = some 0x01 := by decide

/-- InvalidInputGivesTheEmptyResult: each cause of R130, for each command; a byte short and a byte long. -/
theorem witness_invalid :
    ¬ ValidFor (bpp (Instr.gray 0 1 0).op) 0 1 0 ∧ ¬ ValidFor (bpp (Instr.neg (-2) (-2) 16).op) (-2) (-2) 16 ∧
    ¬ ValidFor (bpp (Instr.lumagray 3 1 12).op) 3 1 12 ∧ ¬ ValidFor (bpp (Instr.bloom 3 1 11).op) 3 1 11 ∧
    ¬ ValidFor (bpp (Instr.bloom 3 1 13).op) 3 1 13 ∧ ¬ ValidFor (bpp (Instr.bloom 3 0 0).op) 3 0 0 := by decide

/-- CapacityFatalHaltsUntilReset: one pixel too many for each input format, and exactly as many as fit. -/
theorem witness_capacity :
    (ValidFor (bpp (Instr.bloom 3 1 12).op) 3 1 12 ∧ (two.capPixels : Int) < 3 * 1) ∧
    (ValidFor (bpp (Instr.lumagray 1 3 3).op) 1 3 3 ∧ (two.capPixels : Int) < 1 * 3) ∧
    ((2 : Int) * 1 ≤ two.capPixels ∧ ∃ t, exec (.neg 2 1 8) two = .next t) ∧
    (halted.fatal = true ∧ ∃ t, step halted = .next t ∧ t.fatal = false) :=
  ⟨by decide, by decide, ⟨by decide, ⟨_, rfl⟩⟩, ⟨rfl, ⟨_, rfl, rfl⟩⟩⟩

/-- HaltedBlockFaultsUnlessTheHostActs: with nothing pending, and with the reset input pending. -/
theorem witness_halted :
    (({ halted with hostQueue := [] } : State).phase = .halt ∧ ({ halted with hostQueue := [] } : State).hostQueue = []) ∧
    (halted.phase = .halt ∧ halted.busy = false ∧ halted.hostQueue = .reset :: []) := by decide

/-- EmptyResultMeansRejected, with a result and with none. -/
theorem witness_empty_result :
    running.launched ∧ running.capPixels ≤ Config.capPixelsMax ∧
    (∃ t, exec (.neg 2 1 8) running = .next t ∧ t.done = true ∧ t.outLen ≠ 0) ∧
    (∃ t, exec (.neg 2 1 7) running = .next t ∧ t.done = true ∧ t.outLen = 0) :=
  ⟨by decide, by decide, ⟨_, rfl, rfl, by decide⟩, ⟨_, rfl, rfl, rfl⟩⟩

/-- UnwrittenInputFaults: only the last byte is missing. -/
theorem witness_unwritten :
    ValidFor (bpp (Instr.gray 2 1 8).op) 2 1 8 ∧ (2 : Int) * 1 ≤ (loaded 2 [1, 2, 3, 4, 5, 6, 7]).capPixels ∧
    ¬ (loaded 2 [1, 2, 3, 4, 5, 6, 7]).src.writtenTo 8 := by decide

/-- GrayWritesTheLumaOfEveryPixel, NegSubtractsEveryColourFrom255 and BloomRunsItsFourStages share their premises; the
last pixel and coordinate. -/
theorem witness_packed4_command :
    ValidFor 4 2 1 8 ∧ (2 : Int) * 1 ≤ two.capPixels ∧ two.capPixels ≤ Config.capPixelsMax ∧ two.src.writtenTo 8 ∧
    ((1 : Nat) : Int) < 2 * 1 ∧ two.src.holds 1 0x01 0x80 0xFF 0x00 ∧ ((1 : Nat) : Int) < 2 ∧ ((0 : Nat) : Int) < 1 ∧
    IsChannel Triple.g := ⟨by decide, by decide, by decide, by decide, by decide, by decide, by decide, by decide,
      .inr (.inl rfl)⟩

/-- BloomRunsItsFourStages: the blurred value of the last pixel. -/
theorem witness_bloom_planes :
    ∃ t, exec (.bloom 2 1 8) two = .next t ∧ (∃ v, t.vb[1]? = some v) := ⟨_, rfl, ⟨_, rfl⟩⟩

/-- LumagrayWritesOpaqueGrey. -/
theorem witness_lumagray_command :
    ValidFor 1 2 1 2 ∧ (2 : Int) * 1 ≤ two.capPixels ∧ two.capPixels ≤ Config.capPixelsMax ∧ two.src.writtenTo 2 ∧
    ((1 : Nat) : Int) < 2 * 1 ∧ two.src.read 1 = some 0x34 := by decide

/-- GrayOutputHasEqualChannelsAndKeepsAlpha, LumagrayOutputIsOpaque and BloomKeepsAlphaAndNeverDarkens: commands that
complete. -/
theorem witness_completed :
    (ValidFor 4 2 1 8 ∧ (2 : Int) * 1 ≤ two.capPixels ∧ ∃ t, exec (.gray 2 1 8) two = .next t) ∧
    (ValidFor 1 2 1 2 ∧ ∃ t, exec (.lumagray 2 1 2) two = .next t) ∧
    (∃ t, exec (.bloom 2 1 8) two = .next t) ∧ ((1 : Nat) : Int) < 2 * 1 :=
  ⟨⟨by decide, by decide, ⟨_, rfl⟩⟩, ⟨by decide, ⟨_, rfl⟩⟩, ⟨_, rfl⟩, by decide⟩

/-- NegIsAnInvolution: the second run's SRC holds the first run's result. -/
theorem witness_neg_twice :
    ∃ t, exec (.neg 2 1 8) two = .next t ∧ ({ two with src := published.dst } : State).capPixels = two.capPixels ∧
      ∀ k, k < 8 → published.dst.read k = t.dst.read k := ⟨_, rfl, rfl, by decide⟩

/-- PointFiltersUseNoNeighbour: a 2×1 and a 1×1 image that agree in pixel 0 and nowhere else. -/
theorem witness_no_neighbour :
    ∃ t t', exec (.gray 2 1 8) two = .next t ∧ exec (.gray 1 1 4) (loaded 3 [0x12, 0x34, 0x56, 0x78]) = .next t' ∧
      ValidFor (bpp (Instr.gray 2 1 8).op) 2 1 8 ∧ ValidFor (bpp (Instr.gray 1 1 4).op) 1 1 4 ∧
      (2 : Int) * 1 ≤ two.capPixels ∧ (1 : Int) * 1 ≤ (loaded 3 [0x12, 0x34, 0x56, 0x78]).capPixels ∧
      ((0 : Nat) : Int) < 2 * 1 ∧ ((0 : Nat) : Int) < 1 * 1 ∧
      ∀ k, k < 4 → two.src.read (4 * 0 + k) = (loaded 3 [0x12, 0x34, 0x56, 0x78]).src.read (4 * 0 + k) :=
  ⟨_, _, rfl, rfl, by decide, by decide, by decide, by decide, by decide, by decide, by decide⟩

/-- PointFilterFrame and BloomFrame: a command that runs, one rejected, one too large; the first DST byte outside a
result. -/
theorem witness_frames :
    (Instr.gray 1 1 4).op ≠ 3 ∧ (∃ t, exec (.gray 1 1 4) two = .next t) ∧ (∃ t, exec (.bloom 1 1 4) two = .next t) ∧
    ¬ (ValidFor 4 1 1 4 ∧ (1 : Int) * 1 ≤ two.capPixels ∧ ((4 : Nat) : Int) < 4 * (1 * 1)) ∧
    (∃ t, exec (.lumagray 3 1 3) two = .next t) ∧ ValidFor 1 3 1 3 ∧ (two.capPixels : Int) < 3 * 1 ∧
    (∃ t, exec (.bloom 3 1 12) two = .next t) ∧ ValidFor 4 3 1 12 ∧
    (∃ t, exec (.neg 3 1 11) two = .next t) ∧ ¬ ValidFor 4 3 1 11 :=
  ⟨by decide, ⟨_, rfl⟩, ⟨_, rfl⟩, by decide, ⟨_, rfl⟩, by decide, by decide, ⟨_, rfl⟩, by decide, ⟨_, rfl⟩, by decide⟩

/-- TapsReplicateTheEdge: the smallest size whose five taps are distinct. -/
theorem witness_taps : 0 < 1 ∧ (5 ≤ 5 ∧ 2 ≤ 2 ∧ 2 + 3 ≤ 5) ∧ (-2 : Int) ∈ [-2, -1, 0, 1, (2 : Int)] := by decide

/-- BlurPassesTakeTheTruncatedMeanOfFiveTaps: the last pixel of a 2×3 plane. -/
theorem witness_blur_passes : IsChannel Triple.b ∧ 1 < 2 ∧ 2 < 3 := ⟨.inr (.inr rfl), by decide, by decide⟩

/-- BlurIsHorizontalThenVertical. -/
theorem witness_blur_order :
    ValidFor 4 2 1 8 ∧ (2 : Int) * 1 ≤ two.capPixels ∧ ∃ t, exec (.bloom 2 1 8) two = .next t :=
  ⟨by decide, by decide, ⟨_, rfl⟩⟩

/-- BlurKeepsConstantsAndOrder: two planes in order, not equal. -/
theorem witness_plane_order : PlaneLe (greyPlane [0, 3]) (greyPlane [1, 3]) := by
  intro i ch h
  rcases h with rfl | rfl | rfl <;> rcases i with _ | _ | i <;> simp [greyPlane, planeAt]

/-- BrightMeansWeightedSumAtLeast181000, on both sides of the threshold. -/
theorem witness_threshold :
    (luma8 180 180 180).toNat = 180 ∧ ¬ 181000 ≤ 299 * (180 : Byte).toNat + 587 * (180 : Byte).toNat + 114 * (180 : Byte).toNat ∧
    (luma8 50 252 159).toNat = 181 ∧ 181000 ≤ 299 * (50 : Byte).toNat + 587 * (252 : Byte).toNat + 114 * (159 : Byte).toNat := by
  decide

/-- BloomKeepsImagesWithoutBrightPixels: a black image, and one whose pixel has luma 180. -/
theorem witness_not_bright :
    (ValidFor 4 1 1 4 ∧ (1 : Int) * 1 ≤ (loaded 1 [0, 0, 0, 0]).capPixels ∧
      ∀ k, k < 4 → (loaded 1 [0, 0, 0, 0]).src.read k = some 0) ∧
    ((loaded 1 [0xB4, 0xB4, 0xB4, 0xFF]).src.writtenTo 4 ∧
      ∀ (i : Nat) (a r g b : Byte), (i : Int) < 1 * 1 → (loaded 1 [0xB4, 0xB4, 0xB4, 0xFF]).src.holds i a r g b →
        (luma8 r g b).toNat ≤ 180) := by
  refine ⟨by decide, by decide, ?_⟩
  intro i a r g b hi h
  obtain rfl : i = 0 := by omega
  obtain ⟨hb, hg, hr, -⟩ := h
  obtain rfl : (0xB4 : Byte) = b := by simpa [loaded, Memory.writeBytes, Memory.write, Memory.read] using hb
  obtain rfl : (0xB4 : Byte) = g := by simpa [loaded, Memory.writeBytes, Memory.write, Memory.read] using hg
  obtain rfl : (0xB4 : Byte) = r := by simpa [loaded, Memory.writeBytes, Memory.write, Memory.read] using hr
  decide

/-- BloomOfASinglePixelDoublesABrightOne: a pixel on each side of the threshold. -/
theorem witness_single_pixel :
    (1 ≤ (loaded 1 [0xB5, 0xB5, 0xB5, 0xFF]).capPixels ∧
      (loaded 1 [0xB5, 0xB5, 0xB5, 0xFF]).src.holds 0 0xFF 0xB5 0xB5 0xB5 ∧ 180 < (luma8 0xB5 0xB5 0xB5).toNat) ∧
    ((loaded 1 [0xB4, 0xB4, 0xB4, 0xFF]).src.holds 0 0xFF 0xB4 0xB4 0xB4 ∧ (luma8 0xB4 0xB4 0xB4).toNat ≤ 180) := by decide

/-- ResultDependsOnCommandAndInputOnly: two blocks that agree in SRC[0 .. 8) and differ in DST and the planes. -/
theorem witness_same_input :
    running.launched ∧ ({ running with dst := [(0, 9)], hb := [{ r := 1, g := 2, b := 3 }] } : State).launched ∧
    (∀ k, k < 8 → ({ running with dst := [(0, 9)] } : State).src.read k = running.src.read k) ∧
    ∃ t, exec (.neg 2 1 8) running = .next t := ⟨by decide, by decide, by decide, ⟨_, rfl⟩⟩

/-- EveryCommandEndsInExactlyOneOfThreeWays: operands of each of the three ends. -/
theorem witness_three_ends :
    running.launched ∧ running.capPixels ≤ Config.capPixelsMax ∧ running.src.writtenTo 8 ∧
    (ValidFor 4 2 1 8 ∧ (2 : Int) * 1 ≤ running.capPixels) ∧ ¬ ValidFor 4 2 1 7 ∧
    (ValidFor 1 4 2 8 ∧ (running.capPixels : Int) < 4 * 2) := by decide

/-- PhaseWalkReachesTheCommandsEnd. -/
theorem witness_check_phase : running.phase = .check := rfl

/-- BusyFallsWithinTheHostsActions: with two host actions pending. -/
theorem witness_busy_falls :
    ({ running with hostQueue := [.srcWrite 0 1 9, .wait] } : State).Inv ∧ running.phase = .check ∧
    running.src.writtenTo running.fetch.len ∧
    (∀ a ∈ [HostAction.srcWrite 0 1 9, .wait], a.defined running.bufBytes) :=
  ⟨⟨by decide, by decide, by decide, by decide, by decide, by decide, by decide, by decide, by decide, by decide,
    by decide, by decide, by decide, trivial⟩, rfl, by decide, by simp [HostAction.defined]; decide⟩

/-- CommandsKeepTheLatchedCommand, at each of a command's ends. -/
theorem witness_keeps_cmd :
    (∃ t, exec (.neg 2 1 8) running = .next t) ∧ (∃ t, exec (.neg 2 1 7) running = .next t) ∧
    (∃ t, exec (.neg 3 1 12) running = .next t) := ⟨⟨_, rfl⟩, ⟨_, rfl⟩, ⟨_, rfl⟩⟩

/-- InstancesDrawFromSequencesOfTheirOwn: there is an instance, a step of another than the first, and a choice
on a busy block. -/
theorem witness_instance_numbers :
    0 < Config.nInst ∧ (∃ t, step { published with instanceNo := 1 } = .next t) ∧
    running.busy = true ∧ HostAction.collect ≠ .wait := ⟨Nat.succ_pos _, ⟨_, rfl⟩, by decide, by decide⟩

/-- InstancesShareNothing: the second of two instances steps. -/
theorem witness_instances : ∃ is', stepInstance 1 [two, running] = some is' ∧ 0 ≠ 1 := ⟨_, rfl, by decide⟩

/-- StepRunsTheDecodedCommand: each clause's state. -/
theorem witness_step :
    (running.phase = .check ∧ running.hostQueue = []) ∧
    (running.busy = true ∧ ({ running with hostQueue := [.wait, .collect] } : State).hostQueue = .wait :: [.collect]) ∧
    (HostAction.reset ≠ .wait ∧ ({ running with hostQueue := [.reset] } : State).hostQueue = .reset :: []) ∧
    (published.busy = false ∧ published.hostQueue = .regRead 0x04 4 :: []) ∧
    (two.phase = .idle ∧ two.hostQueue = []) := by decide

/-- DecodeOfEncodeIsTheCommand and EveryWordIsAWellFormedCommand: a command at the ends of its operands' ranges. -/
theorem witness_encoding :
    WellFormed (.bloom (-2147483648) 2147483647 4294967295) ∧
    decode (encodeBytes (.bloom (-2147483648) 2147483647 4294967295) ++ [0xAA]) =
      .ok (.bloom (-2147483648) 2147483647 4294967295, [0xAA]) ∧
    encode (.bloom (-2147483648) 2147483647 4294967295) = BitVec.ofNat 98 0x3FFFFFFFDFFFFFFFE00000003 :=
  ⟨by decide, rfl, by decide⟩

/-- EveryStepKeepsTheInvariant: a step of the host's, and one of the engine's. -/
theorem witness_steps :
    (published.Inv ∧ ∃ t, step published = .next t) ∧ (running.Inv ∧ ∃ t, step running = .next t) ∧
    (halted.Inv ∧ ∃ t, step halted = .next t) :=
  ⟨⟨witness_published_inv, ⟨_, rfl⟩⟩, ⟨witness_running_inv, ⟨_, rfl⟩⟩, ⟨witness_halted_inv, ⟨_, rfl⟩⟩⟩

end Sys2Proof.Tests
end

section
/-! PROOFS. The state family (10_state.md): reset, CTRL, the operand registers, and the result as a function of the
command and its input. -/

namespace Sys2Proof.Machine

/-! ### What a command leaves behind at its end -/

/-- The two kinds of end at which a command answers a next state: it raised, or it published its body's state. -/
theorem exec_next {i : Instr} {s t : State} (h : exec i s = .next t) :
    (∃ e, checkCommand i.len i.width i.height (bpp i.op) s.capPixels = some e ∧ t = s.raise e) ∨
    (checkCommand i.len i.width i.height (bpp i.op) s.capPixels = none ∧
      ∃ u, bodyOf i.op i.width.toNat i.height.toNat s = some u ∧
        t = u.publish (outLength (i.width.toNat * i.height.toNat))) :=
  runCommand_next (exec_eq_runCommand i s ▸ h)

@[simp] theorem State.raise_busy (s : State) (e : Exc) : (s.raise e).busy = false := by cases e <;> rfl
@[simp] theorem State.raise_op (s : State) (e : Exc) : (s.raise e).op = s.op := by cases e <;> rfl
@[simp] theorem State.raise_width (s : State) (e : Exc) : (s.raise e).width = s.width := by cases e <;> rfl
@[simp] theorem State.raise_height (s : State) (e : Exc) : (s.raise e).height = s.height := by cases e <;> rfl
@[simp] theorem State.raise_len (s : State) (e : Exc) : (s.raise e).len = s.len := by cases e <;> rfl

/-- Every end of a command clears BUSY (R161). -/
theorem exec_busy {i : Instr} {s t : State} (h : exec i s = .next t) : t.busy = false := by
  obtain ⟨e, -, rfl⟩ | ⟨-, u, -, rfl⟩ := exec_next h
  · exact s.raise_busy e
  · rfl

/-- No end of a command writes an operand register (R12). -/
theorem exec_operands {i : Instr} {s t : State} (h : exec i s = .next t) :
    t.op = s.op ∧ t.width = s.width ∧ t.height = s.height ∧ t.len = s.len := by
  obtain ⟨e, -, rfl⟩ | ⟨-, u, hu, rfl⟩ := exec_next h
  · simp
  · obtain ⟨bp, hb, vb, ps, -, -, rfl⟩ := bodyOf_stores hu
    exact ⟨rfl, rfl, rfl, rfl⟩

/-! ### CTRL (R15, R156) -/

@[simp] theorem hostAct_ctrlWrite (s : State) (v : Word) : hostAct (.regWrite 0 4 v) s = .next (s.writeCtrl v) := rfl

theorem writeCtrl_of_accepted {s : State} {v : Word} (hv : v.getLsbD 0 = true) (hb : s.busy = false)
    (hf : s.fatal = false) : s.writeCtrl v = s.launch := by
  rw [State.writeCtrl, State.startAccepted, hv, hb, hf]
  rfl

theorem writeCtrl_of_ignored {s : State} {v : Word} (h : v.getLsbD 0 = false ∨ s.busy = true ∨ s.fatal = true) :
    s.writeCtrl v = s := by
  rw [State.writeCtrl, if_neg]
  rw [State.startAccepted]
  rcases h with h | h | h <;> rw [h] <;> simp

/-! ### What raises BUSY -/

/-- The engine never raises BUSY: it ends the command, or it moves between phases and leaves the flag alone. -/
theorem engineStep_busy {s t : State} (h : engineStep s = .next t) : t.busy = false ∨ t.busy = s.busy := by
  by_cases hp : s.phase = .check
  · rw [engineStep_check hp] at h
    exact .inl (exec_busy h)
  · rw [engineStep_of_ne_check hp] at h
    obtain ⟨-, rfl⟩ | ⟨hc, -⟩ | ⟨-, -, u, -, rfl⟩ | ⟨-, px, -, rfl⟩ | ⟨-, rfl⟩ | ⟨-, rfl⟩ | ⟨-, px, -, rfl⟩ := tick_next h
    · exact .inr rfl
    · exact absurd hc hp
    · exact .inl rfl
    · exact .inr rfl
    · exact .inr rfl
    · exact .inr rfl
    · exact .inl rfl

/-- Of the host's actions only an accepted START raises BUSY. -/
theorem hostAct_raises_busy {a : HostAction} {s t : State} (h : hostAct a s = .next t) (hs : s.busy = false)
    (ht : t.busy = true) : s.fatal = false ∧ ∃ v, a = .regWrite 0 4 v ∧ v.getLsbD 0 = true := by
  obtain ⟨q, d, r, rfl⟩ | ⟨-, -, hf, hv⟩ | ⟨-, o, w, k, l, rfl⟩ | ⟨-, index, v, -, rfl⟩ | ⟨-, rfl⟩ := hostAct_next h
  · simp [hs] at ht
  · exact ⟨hf, hv⟩
  · simp [hs] at ht
  · simp [hs] at ht
  · simp at ht

/-- A step that takes BUSY from 0 to 1 is the host's accepted START. -/
theorem step_raises_busy {s t : State} (h : step s = .next t) (hs : s.busy = false) (ht : t.busy = true) :
    s.fatal = false ∧ ∃ v, s.hostQueue.head? = some (.regWrite 0 4 v) ∧ v.getLsbD 0 = true := by
  obtain ⟨-, he⟩ | ⟨-, hb, -⟩ | ⟨a, rest, hq, ha⟩ := step_cases s
  · have := engineStep_busy (he ▸ h)
    simp [hs, ht] at this
  · simp [hs] at hb
  · obtain ⟨hf, v, rfl, hv⟩ := hostAct_raises_busy (s := s.chosen.popHost) (ha ▸ h) hs ht
    exact ⟨hf, v, by rw [hq]; rfl, hv⟩

/-! ### The result as a function of the input (R22) -/

/-- A Packed4 decoding reads the first `4n` bytes of its buffer and no other. -/
theorem decodePacked4_congr {m m' : Memory} {n : Nat} (h : ∀ k < 4 * n, m'.read k = m.read k) :
    decodePacked4 m' n = decodePacked4 m n := by
  refine congrArg allSome (List.map_congr_left fun i hi => ?_)
  have hi : i < n := List.mem_range.1 hi
  rw [pixelAt, pixelAt, h (4 * i) (by omega), h (4 * i + 1) (by omega), h (4 * i + 2) (by omega),
    h (4 * i + 3) (by omega)]

/-- A LumaPlane decoding reads the first `n` bytes of its buffer and no other. -/
theorem decodeLumaPlane_congr {m m' : Memory} {n : Nat} (h : ∀ k < n, m'.read k = m.read k) :
    decodeLumaPlane m' n = decodeLumaPlane m n :=
  congrArg allSome (List.map_congr_left fun i hi => h i (List.mem_range.1 hi))

/-- Two blocks that agree in the bytes a command reads store the same pixels: BLOOM too, since each plane is written
before it is read (R119). -/
theorem bodyOf_congr {op : BitVec 2} {w h : Nat} {s s' u : State}
    (hsrc : ∀ k < bpp op * (w * h), s'.src.read k = s.src.read k) (hb : bodyOf op w h s = some u) :
    ∃ u' ps, bodyOf op w h s' = some u' ∧ ps.length = w * h ∧
      u.dst = encodePacked4 s.dst ps ∧ u'.dst = encodePacked4 s'.dst ps := by
  unfold bodyOf at hb ⊢
  split at hb
  · obtain ⟨px, hd, rfl⟩ := grayBody_eq_some.1 hb
    exact ⟨_, px.map grayPixel, grayBody_eq_some.2 ⟨px, (decodePacked4_congr hsrc).trans hd, rfl⟩,
      by simpa using (decodePacked4_eq_some.1 hd).1, rfl, rfl⟩
  · obtain ⟨px, hd, rfl⟩ := negBody_eq_some.1 hb
    exact ⟨_, px.map negPixel, negBody_eq_some.2 ⟨px, (decodePacked4_congr hsrc).trans hd, rfl⟩,
      by simpa using (decodePacked4_eq_some.1 hd).1, rfl, rfl⟩
  · obtain ⟨ys, hd, rfl⟩ := lumagrayBody_eq_some.1 hb
    rw [show bpp 2#2 = 1 from rfl, Nat.one_mul] at hsrc
    exact ⟨_, ys.map lumagrayPixel, lumagrayBody_eq_some.2 ⟨ys, (decodeLumaPlane_congr hsrc).trans hd, rfl⟩,
      by simpa using (decodeLumaPlane_eq_some.1 hd).1, rfl, rfl⟩
  · obtain ⟨px, hd, rfl⟩ := bloomBody_eq_some.1 hb
    exact ⟨_, List.zipWith recombinePixel px (blur2 w h (px.map brightPixel)),
      bloomBody_eq_some.2 ⟨px, (decodePacked4_congr hsrc).trans hd, rfl⟩,
      by simp [(decodePacked4_eq_some.1 hd).1, blur2], rfl, rfl⟩

/-- A body leaves FATAL alone, the one flag that publication does not set (R17). -/
theorem bodyOf_fatal {op : BitVec 2} {w h : Nat} {s u : State} (hb : bodyOf op w h s = some u) : u.fatal = s.fatal := by
  obtain ⟨_, _, _, _, -, -, rfl⟩ := bodyOf_stores hb
  rfl

/-- Below the length published, which is taken modulo 2^32, the bytes of a stored result do not depend on what the
buffer held before. -/
theorem encodePacked4_read_published (d d' : Memory) {ps : List Pixel} {k : Nat}
    (hk : k < (BitVec.ofNat 32 (outLength ps.length)).toNat) :
    (encodePacked4 d' ps).read k = (encodePacked4 d ps).read k := by
  have hk : k < 4 * ps.length := hk.trans_le (Nat.mod_le _ _)
  rw [encodePacked4_read_inside d' ps hk, encodePacked4_read_inside d ps hk]

/-- The result a host can see is the same in both states (R22): the flags, the phase, OUT_LEN and DST[0 .. OUT_LEN). -/
def State.SameResult (t t' : State) : Prop :=
  t'.busy = t.busy ∧ t'.done = t.done ∧ t'.fatal = t.fatal ∧ t'.phase = t.phase ∧ t'.outLen = t.outLen ∧
    ∀ k, k < t.outLen.toNat → t'.dst.read k = t.dst.read k

/-- Two blocks that have just started a command and raise the same exception end alike. -/
theorem sameResult_raise {s s' : State} (hs : s.launched) (hs' : s'.launched) (e : Exc) :
    (s.raise e).SameResult (s'.raise e) := by
  obtain ⟨-, -, hdone, hfatal, hlen⟩ := hs
  obtain ⟨-, -, hdone', hfatal', hlen'⟩ := hs'
  cases e with
  | invalidInput => simp [State.SameResult, hfatal, hfatal']
  | capacity => simp [State.SameResult, hdone, hdone', hlen, hlen']

/-- Two blocks with the same FATAL that stored the same pixels publish alike. -/
theorem sameResult_publish {u u' : State} {d d' : Memory} {ps : List Pixel} (hf : u'.fatal = u.fatal)
    (hd : u.dst = encodePacked4 d ps) (hd' : u'.dst = encodePacked4 d' ps) :
    (u.publish (outLength ps.length)).SameResult (u'.publish (outLength ps.length)) := by
  refine ⟨rfl, rfl, hf, rfl, rfl, fun k hk => ?_⟩
  rw [State.publish_dst, State.publish_dst, hd, hd']
  exact encodePacked4_read_published d d' hk

/-- Noninterference of a command (R22). -/
theorem exec_sameResult {i : Instr} {s s' t : State} (hs : s.launched) (hs' : s'.launched)
    (hcap : s'.capPixels = s.capPixels) (hsrc : ∀ k, k < i.len → s'.src.read k = s.src.read k)
    (h : exec i s = .next t) : ∃ t', exec i s' = .next t' ∧ t.SameResult t' := by
  rw [exec_eq_runCommand i s']
  obtain ⟨e, hc, rfl⟩ | ⟨hc, u, hu, rfl⟩ := exec_next h
  · exact ⟨s'.raise e, runCommand_raises (hcap ▸ hc), sameResult_raise hs hs' e⟩
  · have hlen := len_of_valid (checkCommand_eq_none.1 hc).1
    obtain ⟨u', ps, hu', hps, hd, hd'⟩ := bodyOf_congr (fun k hk => hsrc k (by rw [hlen, Nat.mul_comm]; exact hk)) hu
    refine ⟨_, runCommand_publishes (hcap ▸ hc) hu', ?_⟩
    obtain ⟨-, -, -, hfatal, -⟩ := hs
    obtain ⟨-, -, -, hfatal', -⟩ := hs'
    rw [← hps]
    exact sameResult_publish (by rw [bodyOf_fatal hu, bodyOf_fatal hu', hfatal, hfatal']) hd hd'

/-! ### The obligations -/

/-- Settles O5: a CTRL write is decided by the START bit, BUSY and FATAL, and neither the engine nor any other host action
raises BUSY. -/
theorem startIsAcceptedOnlyWhenNotBusyAndNotFatal : Obligations.StartIsAcceptedOnlyWhenNotBusyAndNotFatal := by
  refine ⟨fun s => rfl, fun s v hv hb hf => ?_, fun s v h => ?_, fun s t h hs ht => step_raises_busy h hs ht⟩
  · rw [hostAct_ctrlWrite, writeCtrl_of_accepted hv hb hf]
    rfl
  · rw [hostAct_ctrlWrite, writeCtrl_of_ignored h]

/-- Settles O6: every end of a command keeps the operand registers and clears BUSY, so the next START is accepted and
latches them. -/
theorem operandRegistersSurviveEveryCommand : Obligations.OperandRegistersSurviveEveryCommand := by
  intro i s t h
  obtain ⟨hop, hwidth, hheight, hlen⟩ := exec_operands h
  refine ⟨hop, hwidth, hheight, hlen, fun hf v hv => ⟨t.launch, ?_, rfl, rfl, ?_⟩⟩
  · rw [hostAct_ctrlWrite, writeCtrl_of_accepted hv (exec_busy h) hf]
  · rw [State.launch_cmd, hop, hwidth, hheight, hlen]

/-- Settles O48: the checks see only the command and CAP_PIXELS, and a body's pixels come from SRC[0 .. len) alone. -/
theorem resultDependsOnCommandAndInputOnly : Obligations.ResultDependsOnCommandAndInputOnly :=
  fun _ _ _ _ hs hs' hcap hsrc h => exec_sameResult hs hs' hcap hsrc h

/-- Settles O1, field by field from the definition of the reset state (R24). -/
theorem resetLeavesAnIdleBlockWithZeroOperands : Obligations.ResetLeavesAnIdleBlockWithZeroOperands :=
  ⟨rfl, rfl, rfl, rfl, rfl, rfl, rfl, rfl, rfl, rfl⟩

end Sys2Proof.Machine
end

section
/-! PROOFS. The validator and codec family (40_validator_codec.md): the exact product of VALIDATE, and Packed4 decoding and
encoding. -/

namespace Sys2Proof.Machine

/-! ### The multiplier of VALIDATE (R72) -/

/-- The largest product of the operands' ranges, 4 * (2^31 - 1)^2, fits in 64 bits. -/
theorem product_lt_two_pow_64 {w h : Int} {b : Nat} (hw0 : 1 ≤ w) (hw : w < 2 ^ 31) (hh0 : 1 ≤ h) (hh : h < 2 ^ 31)
    (hb : b ≤ 4) : w * h * b < 2 ^ 64 := by
  have hpixels : w * h ≤ (2 ^ 31 - 1) * (2 ^ 31 - 1) := by gcongr <;> omega
  calc w * h * b ≤ (2 ^ 31 - 1) * (2 ^ 31 - 1) * 4 := by gcongr; omega
    _ < 2 ^ 64 := by norm_num

/-- A 64-bit comparison of two values that fit in 64 bits is exact. -/
theorem ofInt_64_eq_ofNat_64_iff {v : Int} {n : Nat} (hv0 : 0 ≤ v) (hv : v < 2 ^ 64) (hn : n < 2 ^ 64) :
    BitVec.ofInt 64 v = BitVec.ofNat 64 n ↔ (n : Int) = v := by
  rw [← BitVec.toNat_inj, BitVec.toNat_ofInt, BitVec.toNat_ofNat]
  omega

/-! ### The bytes of a pixel (R73, R74) -/

/-- A buffer holds a pixel's four bytes exactly where `pixelAt` reads that pixel. -/
theorem holds_iff_pixelAt {m : Memory} {i : Nat} {a r g b : Byte} :
    m.holds i a r g b ↔ pixelAt m i = some { a := a, r := r, g := g, b := b } := by
  rw [pixelAt_eq_some]

/-! ### The obligations -/

/-- Settles O14: the product is never negative, never reaches 2^64 in the operands' ranges, and only a product below 2^32
can equal a `len`. -/
theorem validationUsesTheExactProduct : Obligations.ValidationUsesTheExactProduct := by
  refine ⟨fun len b w h => validate_iff, fun len b w h hw0 hw hh0 hh hb hlen => ?_, fun len b w h hlen hbig => ?_,
    by decide⟩
  · have hlt := product_lt_two_pow_64 hw0 hw hh0 hh hb
    have hnonneg : 0 ≤ w * h * b := by positivity
    refine ⟨hlt, ?_⟩
    rw [validate_iff, ofInt_64_eq_ofNat_64_iff hnonneg hlt (by omega)]
    exact ⟨fun ⟨_, _, heq⟩ => heq, fun heq => ⟨by omega, by omega, heq⟩⟩
  · rw [← Bool.not_eq_true, validate_iff]
    rintro ⟨-, -, heq⟩
    omega

/-- Settles O18: a written buffer decodes, and each pixel of the sequence is the one `pixelAt` reads. -/
theorem decodePacked4ReadsBlueGreenRedAlpha : Obligations.DecodePacked4ReadsBlueGreenRedAlpha := by
  refine ⟨fun m n hm => ?_, by decide⟩
  obtain ⟨px, hpx⟩ := decodePacked4_isSome hm
  obtain ⟨hlen, hpixel⟩ := decodePacked4_eq_some.1 hpx
  exact ⟨px, hpx, hlen, fun i a r g b hi hb => (hpixel i hi).symm.trans (holds_iff_pixelAt.1 hb)⟩

/-- Settles O19: the packed sequence's length, its place at the front of the buffer, and the bytes beyond it. -/
theorem encodePacked4WritesBlueGreenRedAlpha : Obligations.EncodePacked4WritesBlueGreenRedAlpha :=
  ⟨fun m ps => ⟨packPixels_length ps, fun _ _ hp => holds_iff_pixelAt.2 (encodePacked4_pixel m hp),
    fun _ hk => encodePacked4_read_beyond m ps hk⟩, rfl⟩

end Sys2Proof.Machine
end

section
/-! PROOFS. The point filter family (41_point_filters.md): GRAY's equal channels and kept alpha, NEG as an involution,
LUMAGRAY's opaque output. -/

namespace Sys2Proof.Machine

/-! ### A valid command within capacity -/

/-- Validation and the capacity check both pass (R134, R135). -/
theorem checkCommand_of_valid {len b cap : Nat} {w h : Int} (hv : ValidFor b w h len) (hcap : w * h ≤ cap) :
    checkCommand len w h b cap = none :=
  checkCommand_eq_none.2 ⟨validate_iff.2 hv, hcap⟩

/-- The one end at which a valid command within capacity answers: it published its body's state. -/
theorem exec_next_of_valid {i : Instr} {s t : State} (hv : ValidFor (bpp i.op) i.width i.height i.len)
    (hcap : i.width * i.height ≤ s.capPixels) (h : exec i s = .next t) :
    ∃ u, bodyOf i.op i.width.toNat i.height.toNat s = some u ∧
      t = u.publish (outLength (i.width.toNat * i.height.toNat)) := by
  have hnone := checkCommand_of_valid hv hcap
  obtain ⟨e, hc, -⟩ | ⟨-, hu⟩ := exec_next h
  · rw [hnone] at hc
    cases hc
  · exact hu

/-- A pixel index below `w × h`, over the natural numbers. -/
theorem pixel_lt_of_valid {b len i : Nat} {w h : Int} (hv : ValidFor b w h len) (hi : (i : Int) < w * h) :
    i < w.toNat * h.toNat := by
  obtain ⟨hw, hh, -⟩ := hv
  rw [← pixels_of_valid hw hh] at hi
  exact_mod_cast hi

/-! ### What a point filter leaves in DST -/

/-- What a valid GRAY leaves in DST (R90). -/
theorem execGray_dst {s t : State} {w h : Int} {n : Nat} (hv : ValidFor 4 w h n) (hcap : w * h ≤ s.capPixels)
    (hexec : exec (.gray w h n) s = .next t) :
    ∃ px, decodePacked4 s.src (w.toNat * h.toNat) = some px ∧ t.dst = encodePacked4 s.dst (px.map grayPixel) := by
  obtain ⟨u, hu, rfl⟩ := exec_next_of_valid (i := .gray w h n) hv hcap hexec
  obtain ⟨px, hd, rfl⟩ := grayBody_eq_some.1 hu
  exact ⟨px, hd, rfl⟩

/-- What a valid NEG leaves in DST (R91). -/
theorem execNeg_dst {s t : State} {w h : Int} {n : Nat} (hv : ValidFor 4 w h n) (hcap : w * h ≤ s.capPixels)
    (hexec : exec (.neg w h n) s = .next t) :
    ∃ px, decodePacked4 s.src (w.toNat * h.toNat) = some px ∧ t.dst = encodePacked4 s.dst (px.map negPixel) := by
  obtain ⟨u, hu, rfl⟩ := exec_next_of_valid (i := .neg w h n) hv hcap hexec
  obtain ⟨px, hd, rfl⟩ := negBody_eq_some.1 hu
  exact ⟨px, hd, rfl⟩

/-- What a valid LUMAGRAY leaves in DST (R92). -/
theorem execLumagray_dst {s t : State} {w h : Int} {n : Nat} (hv : ValidFor 1 w h n) (hcap : w * h ≤ s.capPixels)
    (hexec : exec (.lumagray w h n) s = .next t) :
    ∃ ys, decodeLumaPlane s.src (w.toNat * h.toNat) = some ys ∧
      t.dst = encodePacked4 s.dst (ys.map lumagrayPixel) := by
  obtain ⟨u, hu, rfl⟩ := exec_next_of_valid (i := .lumagray w h n) hv hcap hexec
  obtain ⟨ys, hd, rfl⟩ := lumagrayBody_eq_some.1 hu
  exact ⟨ys, hd, rfl⟩

/-- A valid NEG within capacity whose input decodes publishes the negated pixels. -/
theorem execNeg_publishes {s : State} {w h : Int} {n : Nat} {px : List Pixel} (hv : ValidFor 4 w h n)
    (hcap : w * h ≤ s.capPixels) (hd : decodePacked4 s.src (w.toNat * h.toNat) = some px) :
    exec (.neg w h n) s =
      .next ((s.storePixels (px.map negPixel)).publish (outLength (w.toNat * h.toNat))) :=
  runCommand_publishes (checkCommand_of_valid hv hcap) (negBody_eq_some.2 ⟨px, hd, rfl⟩)

/-! ### The codec pixel by pixel, and its round trip (R75) -/

/-- Each pixel of a decoded sequence is the one its buffer holds. -/
theorem decodePacked4_pixel {m : Memory} {n i : Nat} {px : List Pixel} (hd : decodePacked4 m n = some px) (hi : i < n) :
    ∃ p, pixelAt m i = some p ∧ px[i]? = some p := by
  obtain ⟨hlen, hpixel⟩ := decodePacked4_eq_some.1 hd
  have hget : px[i]? = some px[i] := List.getElem?_eq_getElem (by omega)
  exact ⟨px[i], (hpixel i hi).trans hget, hget⟩

/-- Two buffers that hold the same pixel `i` agree in its four bytes. -/
theorem read_eq_of_pixelAt {m m' : Memory} {k : Nat} {p : Pixel} (hp : pixelAt m (k / 4) = some p)
    (hp' : pixelAt m' (k / 4) = some p) : m'.read k = m.read k := by
  obtain ⟨hb, hg, hr, ha⟩ := pixelAt_eq_some.1 hp
  obtain ⟨hb', hg', hr', ha'⟩ := pixelAt_eq_some.1 hp'
  obtain hk | hk | hk | hk : k = 4 * (k / 4) ∨ k = 4 * (k / 4) + 1 ∨ k = 4 * (k / 4) + 2 ∨ k = 4 * (k / 4) + 3 := by
    omega
  · rw [hk, hb, hb']
  · rw [hk, hg, hg']
  · rw [hk, hr, hr']
  · rw [hk, ha, ha']

/-- Decoding what has been encoded gives back the pixels. -/
theorem decodePacked4_encodePacked4 (m : Memory) (ps : List Pixel) :
    decodePacked4 (encodePacked4 m ps) ps.length = some ps := by
  refine decodePacked4_eq_some.2 ⟨rfl, fun i hi => ?_⟩
  rw [List.getElem?_eq_getElem hi]
  exact encodePacked4_pixel m (List.getElem?_eq_getElem hi)

/-- Output pixel `i` of a filter applied pixel by pixel. -/
theorem encodePacked4_map_pixel {α : Type} (d : Memory) (f : α → Pixel) {xs : List α} {x : α} {i : Nat}
    (hx : xs[i]? = some x) : pixelAt (encodePacked4 d (xs.map f)) i = some (f x) :=
  encodePacked4_pixel d (by rw [List.getElem?_map, hx, Option.map_some])

/-- Encoding what has been decoded gives back the bytes. -/
theorem encodePacked4_read_decoded {m : Memory} {n k : Nat} {px : List Pixel} (hd : decodePacked4 m n = some px)
    (d : Memory) (hk : k < 4 * n) : (encodePacked4 d px).read k = m.read k := by
  obtain ⟨p, hp, hget⟩ := decodePacked4_pixel (i := k / 4) hd (by omega)
  exact read_eq_of_pixelAt hp (encodePacked4_pixel d hget)

/-! ### NEG undoes itself (R91, R94) -/

theorem negChannel_toNat (c : Byte) : (negChannel c).toNat = 255 - c.toNat := by
  simp only [negChannel, chMax, BitVec.toNat_ofNat]
  omega

theorem negChannel_negChannel (c : Byte) : negChannel (negChannel c) = c := by
  apply BitVec.eq_of_toNat_eq
  rw [negChannel_toNat, negChannel_toNat]
  omega

theorem negPixel_involutive : Function.Involutive negPixel := fun p => by
  simp only [negPixel, negChannel_negChannel]

/-! ### The obligations -/

/-- Settles O33: the second run decodes the pixels the first one encoded and negates them back, and encoding the first
input's pixels gives its bytes. -/
theorem negIsAnInvolution : Obligations.NegIsAnInvolution := by
  intro s t s' w h n hv hcap hexec hcap' hcopy
  obtain ⟨px, hd, ht⟩ := execNeg_dst hv hcap hexec
  have hlen : px.length = w.toNat * h.toNat := (decodePacked4_eq_some.1 hd).1
  have hn : n = 4 * (w.toNat * h.toNat) := (len_of_valid (validate_iff.2 hv)).trans (Nat.mul_comm _ _)
  have hd' : decodePacked4 s'.src (w.toNat * h.toNat) = some (px.map negPixel) :=
    calc decodePacked4 s'.src (w.toNat * h.toNat)
      _ = decodePacked4 t.dst (w.toNat * h.toNat) := decodePacked4_congr fun k hk => hcopy k (hn ▸ hk)
      _ = some (px.map negPixel) := by
        rw [ht, ← hlen, ← List.length_map (f := negPixel), decodePacked4_encodePacked4]
  refine ⟨_, execNeg_publishes hv (hcap' ▸ hcap) hd', fun k hk => ?_⟩
  rw [State.publish_dst, State.storePixels_dst, List.map_map, negPixel_involutive.comp_self, List.map_id]
  exact encodePacked4_read_decoded hd s'.dst (hn ▸ hk)

/-- Settles O32: output pixel `i` is `grayPixel` of input pixel `i`. -/
theorem grayOutputHasEqualChannelsAndKeepsAlpha : Obligations.GrayOutputHasEqualChannelsAndKeepsAlpha := by
  intro s t w h n hv hcap hexec i hi
  obtain ⟨px, hd, ht⟩ := execGray_dst hv hcap hexec
  obtain ⟨p, hp, hget⟩ := decodePacked4_pixel hd (pixel_lt_of_valid hv hi)
  obtain ⟨-, -, -, ha⟩ := pixelAt_eq_some.1 hp
  refine ⟨p.a, luma8 p.r p.g p.b, ha, ?_⟩
  rw [ht, holds_iff_pixelAt]
  exact encodePacked4_map_pixel s.dst grayPixel hget

/-- Settles O34: output pixel `i` is `lumagrayPixel` of the plane's sample `i`, whose alpha is 255 whatever the sample. -/
theorem lumagrayOutputIsOpaque : Obligations.LumagrayOutputIsOpaque := by
  intro s t w h n hv hcap hexec i hi
  obtain ⟨ys, hd, ht⟩ := execLumagray_dst hv hcap hexec
  have hlen : ys.length = w.toNat * h.toNat := (decodeLumaPlane_eq_some.1 hd).1
  have hi : i < ys.length := hlen ▸ pixel_lt_of_valid hv hi
  obtain ⟨-, -, -, ha⟩ := pixelAt_eq_some.1
    (encodePacked4_map_pixel s.dst lumagrayPixel (List.getElem?_eq_getElem hi))
  rw [ht]
  exact ha

end Sys2Proof.Machine
end

section
/-! PROOFS. The box blur family (42_box_blur.md): the mean of five bytes is in range, so the clamp of a pass changes
nothing. -/

namespace Sys2Proof.Machine

/-- `s div 5 ≤ 255` for the sum of five bytes (R106): the sum is at most `5 * 255`. -/
theorem five_bytes_mean_le (t0 t1 t2 t3 t4 : Byte) :
    (t0.toNat + t1.toNat + t2.toNat + t3.toNat + t4.toNat) / 5 ≤ 255 := by
  have h0 := t0.isLt; have h1 := t1.isLt; have h2 := t2.isLt; have h3 := t3.isLt; have h4 := t4.isLt
  omega

/-- Settles O40: the fifth is in the range `clamp8` keeps, and the model's sample is that fifth. -/
theorem blurClampIsRedundant : Obligations.BlurClampIsRedundant := fun t0 t1 t2 t3 t4 =>
  have hle := five_bytes_mean_le t0 t1 t2 t3 t4
  ⟨hle, clamp8_of_nat_le hle, blurChannel_toNat t0 t1 t2 t3 t4⟩

end Sys2Proof.Machine
end

section
/-! PROOFS. The bloom family (43_bloom.md): BLOOM of a 1×1 image, where every blur tap is the image's one pixel. -/

namespace Sys2Proof.Machine

/-! ### The blur of a 1×1 plane (R101 to R104) -/

/-- Edge replication: in a row or column of one pixel every tap is that pixel (R101). -/
@[simp] theorem tap_one (x : Nat) (k : Int) : tap 1 x k = 0 := Nat.lt_one_iff.1 (tap_lt Nat.one_pos k)

/-- The truncated mean of five equal bytes is that byte. -/
@[simp] theorem blurChannel_self (c : Byte) : blurChannel c c c c c = c := by
  apply BitVec.eq_of_toNat_eq
  rw [blurChannel_toNat]
  omega

@[simp] theorem blurTriple_self (v : Triple) : blurTriple v v v v v = v := by simp [blurTriple]

@[simp] theorem hblur_one (v : Triple) : hblur 1 1 [v] = [v] := by simp [hblur, hblurAt, planeAt, pixelIndex]

@[simp] theorem vblur_one (v : Triple) : vblur 1 1 [v] = [v] := by simp [vblur, vblurAt, planeAt, pixelIndex]

/-- The blur of a 1×1 plane is that plane (R122). -/
theorem blur2_one (v : Triple) : blur2 1 1 [v] = [v] := by rw [blur2, hblur_one, vblur_one]

/-! ### Recombination with a pixel's own bright value (R115, R118) -/

/-- A saturating sum with zero is the channel itself. -/
theorem clamp8_add_zero (c : Byte) : clamp8 ((c.toNat : Int) + (0 : Byte).toNat) = c := by
  apply BitVec.eq_of_toNat_eq
  have hzero : (0 : Byte).toNat = 0 := rfl
  rw [clamp8_add, hzero]
  omega

/-- A pixel recombined with its own bright value has its channels doubled, saturating, when it is bright. -/
theorem recombinePixel_brightPixel_of_bright {p : Pixel} (h : 180 < (luma8 p.r p.g p.b).toNat) :
    recombinePixel p (brightPixel p) =
      { a := p.a, r := clamp8 (2 * p.r.toNat), g := clamp8 (2 * p.g.toNat), b := clamp8 (2 * p.b.toNat) } := by
  rw [brightPixel_of_bright h]
  simp only [recombinePixel, two_mul]

/-- A pixel that is not bright has the bright value zero, and recombination keeps it. -/
theorem recombinePixel_brightPixel_of_not_bright {p : Pixel} (h : (luma8 p.r p.g p.b).toNat ≤ 180) :
    recombinePixel p (brightPixel p) = p := by
  rw [brightPixel_of_not_bright h]
  simp only [recombinePixel, clamp8_add_zero]

/-! ### The command (R119) -/

/-- A valid BLOOM within capacity whose input decodes publishes a state whose DST holds each input pixel recombined with
the twice blurred bright-pass plane. -/
theorem execBloom_publishes {s : State} {w h : Int} {n : Nat} {px : List Pixel} (hv : ValidFor 4 w h n)
    (hcap : w * h ≤ s.capPixels) (hd : decodePacked4 s.src (w.toNat * h.toNat) = some px) :
    ∃ t, exec (.bloom w h n) s = .next t ∧ t.dst = encodePacked4 s.dst
      (List.zipWith recombinePixel px (blur2 w.toNat h.toNat (px.map brightPixel))) :=
  ⟨_, runCommand_publishes (checkCommand_of_valid hv hcap) (bloomBody_eq_some.2 ⟨px, hd, rfl⟩), rfl⟩

/-- The pixel sequence of a 1×1 image. -/
theorem decodePacked4_one {m : Memory} {p : Pixel} (hp : pixelAt m 0 = some p) : decodePacked4 m 1 = some [p] :=
  decodePacked4_eq_some.2 ⟨rfl, fun i hi => by rw [Nat.lt_one_iff.1 hi, hp]; rfl⟩

/-- BLOOM of a 1×1 image completes, and its output is the pixel recombined with its own bright value (R122). -/
theorem execBloom_one {s : State} {p : Pixel} (hcap : 1 ≤ s.capPixels) (hp : pixelAt s.src 0 = some p) :
    ∃ t, exec (.bloom 1 1 4) s = .next t ∧ pixelAt t.dst 0 = some (recombinePixel p (brightPixel p)) := by
  obtain ⟨t, ht, hdst⟩ := execBloom_publishes (s := s) (w := 1) (h := 1) (n := 4) (by decide) (by exact_mod_cast hcap)
    (decodePacked4_one hp)
  have hplane : blur2 1 1 ([p].map brightPixel) = [brightPixel p] := blur2_one _
  refine ⟨t, ht, ?_⟩
  rw [hdst, Int.toNat_one, hplane]
  exact encodePacked4_pixel s.dst rfl

/-! ### The obligation -/

/-- Settles O46: the blur leaves the one pixel's bright value as it is, and that value is the pixel itself above the
threshold and zero at or below it. -/
theorem bloomOfASinglePixelDoublesABrightOne : Obligations.BloomOfASinglePixelDoublesABrightOne := by
  intro s a r g b hcap hsrc
  obtain ⟨t, ht, hout⟩ := execBloom_one hcap (holds_iff_pixelAt.1 hsrc)
  refine ⟨t, ht, fun hbright => ?_, fun hdark => ?_⟩
  · rw [holds_iff_pixelAt, hout, recombinePixel_brightPixel_of_bright (p := ⟨a, r, g, b⟩) hbright]
  · rw [holds_iff_pixelAt, hout, recombinePixel_brightPixel_of_not_bright (p := ⟨a, r, g, b⟩) hdark]

end Sys2Proof.Machine
end

section
/-! PROOFS. The exceptions family (60_exceptions.md): InvalidInput's empty result, Fatal(Capacity), and FATAL until reset. -/

namespace Sys2Proof.Machine

/-! ### What raises an exception (R130, R135) -/

/-- A command whose checks fail takes the exception entry, before anything of SRC is read (R134). -/
theorem exec_raises {i : Instr} {s : State} {e : Exc}
    (hc : checkCommand i.len i.width i.height (bpp i.op) s.capPixels = some e) : exec i s = .next (s.raise e) := by
  rw [exec_eq_runCommand]
  exact runCommand_raises hc

/-- Validation alone decides InvalidInput: the capacity does not matter (R134). -/
theorem checkCommand_of_invalid {len b cap : Nat} {w h : Int} (hv : ¬ ValidFor b w h len) :
    checkCommand len w h b cap = some .invalidInput :=
  checkCommand_eq_invalidInput.2 (Bool.eq_false_iff.2 (hv ∘ validate_iff.1))

/-- A valid command above the capacity is Fatal(Capacity) (R135). -/
theorem checkCommand_of_over_capacity {len b cap : Nat} {w h : Int} (hv : ValidFor b w h len)
    (hcap : (cap : Int) < w * h) : checkCommand len w h b cap = some .capacity :=
  checkCommand_eq_capacity.2 ⟨validate_iff.2 hv, hcap⟩

/-! ### What changes FATAL -/

/-- A command leaves FATAL alone, or it is above the capacity and sets it. -/
theorem exec_fatal {i : Instr} {s t : State} (h : exec i s = .next t) :
    t.fatal = s.fatal ∨ ((s.capPixels : Int) < i.width * i.height ∧ t.fatal = true) := by
  obtain ⟨e, hc, rfl⟩ | ⟨-, u, hu, rfl⟩ := exec_next h
  · cases e with
    | invalidInput => exact .inl rfl
    | capacity => exact .inr ⟨(checkCommand_eq_capacity.1 hc).2, rfl⟩
  · exact .inl ((u.publish_fatal _).trans (bodyOf_fatal hu))

/-- The engine never clears FATAL: it runs a command, or it moves between phases past CHECK and leaves the flag alone. -/
theorem engineStep_fatal {s t : State} (h : engineStep s = .next t) : t.fatal = s.fatal ∨ t.fatal = true := by
  by_cases hp : s.phase = .check
  · rw [engineStep_check hp] at h
    exact (exec_fatal h).imp_right And.right
  · rw [engineStep_of_ne_check hp] at h
    obtain ⟨-, rfl⟩ | ⟨hc, -⟩ | ⟨-, -, u, hu, rfl⟩ | ⟨-, px, -, rfl⟩ | ⟨-, rfl⟩ | ⟨-, rfl⟩ | ⟨-, px, -, rfl⟩ := tick_next h
    · exact .inl rfl
    · exact absurd hc hp
    · exact .inl ((u.publish_fatal _).trans (bodyOf_fatal hu))
    · exact .inl rfl
    · exact .inl rfl
    · exact .inl rfl
    · exact .inl rfl

/-- Of the host's actions only the reset input changes FATAL (R150). -/
theorem hostAct_fatal {a : HostAction} {s t : State} (h : hostAct a s = .next t) : t.fatal = s.fatal ∨ a = .reset := by
  obtain ⟨q, d, r, rfl⟩ | ⟨rfl, -⟩ | ⟨-, o, w, k, l, rfl⟩ | ⟨-, index, v, -, rfl⟩ | ⟨ha, -⟩ := hostAct_next h
  · exact .inl rfl
  · exact .inl rfl
  · exact .inl rfl
  · exact .inl rfl
  · exact .inr ha

/-- A step that takes FATAL from 1 to 0 is the host's reset input (R136, R150). -/
theorem step_clears_fatal {s t : State} (h : step s = .next t) (hs : s.fatal = true) (ht : t.fatal = false) :
    s.hostQueue.head? = some .reset := by
  obtain ⟨-, he⟩ | ⟨-, -, he⟩ | ⟨a, rest, hq, ha⟩ := step_cases s
  · have := engineStep_fatal (he ▸ h)
    simp [hs, ht] at this
  · have := engineStep_fatal (he ▸ h)
    simp [hs, ht] at this
  · have := hostAct_fatal (ha ▸ h)
    simp only [hs, ht, State.popHost_fatal, State.chosen_fatal, Bool.false_eq_true, false_or] at this
    rw [hq, this]
    rfl

/-! ### The obligations -/

/-- Settles O23: failed validation takes the InvalidInput entry, which writes OUT_LEN, BUSY, DONE and the phase only. -/
theorem invalidInputGivesTheEmptyResult : Obligations.InvalidInputGivesTheEmptyResult :=
  fun _ s hv => ⟨s.cmd, exec_raises (checkCommand_of_invalid hv)⟩

/-- Settles O24: a valid command above the capacity takes the Fatal(Capacity) entry, no other end of a command changes
FATAL, a START is ignored while it stands, and of all steps only the reset input's clears it. -/
theorem capacityFatalHaltsUntilReset : Obligations.CapacityFatalHaltsUntilReset := by
  refine ⟨fun i s hv hcap => ⟨s.cmd, exec_raises (checkCommand_of_over_capacity hv hcap)⟩, fun i s t hcap h => ?_,
    fun s v hf => ?_, fun s t h hs ht => step_clears_fatal h hs ht, fun s hf hsucc => ?_⟩
  · exact (exec_fatal h).resolve_right fun hover => hcap.not_gt hover.1
  · rw [hostAct_ctrlWrite, writeCtrl_of_ignored (.inr (.inr hf))]
  · obtain ⟨-, hclear⟩ := hsucc
    simp [hf] at hclear

end Sys2Proof.Machine
end

section
/-! PROOFS. The reset family (70_reset_and_hazards.md): the reset input, and the block that waits after it. -/

namespace Sys2Proof.Machine

/-- The reset input is accepted in every state (R150). -/
theorem hostAct_reset (s : State) : hostAct .reset s = .next s.afterReset := rfl

/-- An IDLE block with nothing pending for the host keeps its state (R142). -/
theorem step_of_idle {s : State} (hp : s.phase = .idle) (hq : s.hostQueue = []) : step s = .next s := by
  have hcheck : s.phase ≠ .check := by simp [hp]
  rw [step_of_no_host hq, engineStep_of_ne_check hcheck, tick_idle hp]

/-- Settles O3: the reset input gives R24's values, in IDLE, where a block waits; and neither the engine nor another host
action clears FATAL. -/
theorem resetInputAlwaysGivesTheResetState : Obligations.ResetInputAlwaysGivesTheResetState := by
  refine ⟨fun s => ⟨s.afterReset, hostAct_reset s, ?_⟩, fun s t => step_clears_fatal⟩
  have hwait : s.hostQueue = [] → step s.afterReset = .next s.afterReset :=
    fun hq => step_of_idle s.afterReset_phase (s.afterReset_hostQueue.trans hq)
  simpa using hwait

end Sys2Proof.Machine
end

section
/-! PROOFS. The encoding family (30_encoding.md): decoding undoes encoding, encoding undoes decoding, and the words the
spec gives for its programs. -/

namespace Sys2Proof

/-! ### Fields and words (R50, R53) -/

theorem dimField_sext32 (v : Word) : dimField (sext32 v) = v := BitVec.ofInt_toInt

theorem lenField_zext32 (v : Word) : lenField (zext32 v) = v := BitVec.ofNat_toNat 32 v

/-- A sign-extended field is an s32 (R53). -/
theorem dimInRange_sext32 (v : Word) : DimInRange (sext32 v) := ⟨BitVec.le_toInt v, BitVec.toInt_lt⟩

/-- A zero-extended field is a u32 (R53). -/
theorem lenInRange_zext32 (v : Word) : LenInRange (zext32 v) := v.isLt

/-- A word is its four fields, packed (R50): the packing drops no bit. -/
theorem CmdWord.pack_fields (w : CmdWord) : CmdWord.pack w.op w.width w.height w.len = w := by
  unfold pack op width height len
  rw [BitVec.extractLsb'_append_extractLsb'_eq_extractLsb' (start₂ := 66) (by rfl),
    BitVec.extractLsb'_append_extractLsb'_eq_extractLsb' (start₂ := 34) (by rfl),
    BitVec.extractLsb'_append_extractLsb'_eq_extractLsb' (start₂ := 2) (by rfl)]
  exact BitVec.extractLsb'_eq_self

/-! ### Decoding and encoding a word (R51, R57) -/

/-- A command is well formed exactly when its three operands are in the registers' ranges (R58). -/
theorem wellFormed_iff (i : Instr) : WellFormed i ↔ OperandsInRange i.width i.height i.len := by
  cases i <;> exact decide_eq_true_iff

/-- Which command three fields that hold a command's operands decode to, under its own op field. -/
theorem decodeFields_op {i : Instr} {w h l : Word} (hw : sext32 w = i.width) (hh : sext32 h = i.height)
    (hl : zext32 l = i.len) : decodeFields i.op w h l = i := by
  cases i <;> simpa [decodeFields, Instr.op] using ⟨hw, hh, hl⟩

/-- Decoding a well-formed command's word gives the command back. -/
theorem decodeWord_encode {i : Instr} (h : WellFormed i) : decodeWord (encode i) = i := by
  obtain ⟨hw, hh, hn⟩ := (wellFormed_iff i).1 h
  rw [decodeWord, encode, CmdWord.pack_op, CmdWord.pack_width, CmdWord.pack_height, CmdWord.pack_len]
  exact decodeFields_op (sext32_dimField hw) (sext32_dimField hh) (zext32_lenField hn)

/-- Encoding the command a word names gives the word back. -/
theorem encode_decodeWord (w : CmdWord) : encode (decodeWord w) = w := by
  obtain ⟨hop, hwidth, hheight, hlen⟩ := decodeFields_operands w.op w.width w.height w.len
  rw [encode, decodeWord, hop, hwidth, hheight, hlen, dimField_sext32, dimField_sext32, lenField_zext32,
    CmdWord.pack_fields]

/-- Every word names a well-formed command: its operands are the values of 32-bit fields. -/
theorem wellFormed_decodeWord (w : CmdWord) : WellFormed (decodeWord w) := by
  obtain ⟨-, hwidth, hheight, hlen⟩ := decodeFields_operands w.op w.width w.height w.len
  rw [wellFormed_iff, decodeWord, hwidth, hheight, hlen]
  exact ⟨dimInRange_sext32 _, dimInRange_sext32 _, lenInRange_zext32 _⟩

/-! ### The word as a byte string -/

@[simp] theorem encodeBytes_length (i : Instr) : (encodeBytes i).length = cmdBytes := toBytesLE_length _ _

/-- The 13 bytes spell the word: 98 bits fit in them. -/
theorem fromBytesLE_encodeBytes (i : Instr) : fromBytesLE (encodeBytes i) = (encode i).toNat := by
  have hlt : (encode i).toNat < 2 ^ 98 := (encode i).isLt
  rw [encodeBytes, fromBytesLE_toBytesLE, cmdBytes, Nat.mod_eq_of_lt (by omega)]

/-- Decoding a command's bytes is decoding its word; what follows is handed back. -/
theorem decode_encodeBytes_append (i : Instr) (rest : List Byte) :
    decode (encodeBytes i ++ rest) = .ok (decodeWord (encode i), rest) := by
  have htake : (encodeBytes i ++ rest).take cmdBytes = encodeBytes i := List.take_left' (encodeBytes_length i)
  have hdrop : (encodeBytes i ++ rest).drop cmdBytes = rest := List.drop_left' (encodeBytes_length i)
  have hlong : ¬ (encodeBytes i ++ rest).length < cmdBytes := by simp
  have hpad : ¬ 2 ^ 98 ≤ (encode i).toNat := Nat.not_le.2 (encode i).isLt
  rw [decode, if_neg hlong, htake, hdrop, fromBytesLE_encodeBytes, if_neg hpad, BitVec.ofNat_toNat, BitVec.setWidth_eq]

/-! ### The obligations -/

/-- Settles O55: the 13 bytes spell the command's word, and the word's fields are the operands' own patterns. -/
theorem decodeOfEncodeIsTheCommand : Obligations.DecodeOfEncodeIsTheCommand := fun i rest h => by
  rw [decode_encodeBytes_append, decodeWord_encode h]

/-- Settles O56: decoding answers a well-formed command, and the two directions undo each other. -/
theorem everyWordIsAWellFormedCommand : Obligations.EveryWordIsAWellFormedCommand := fun w =>
  ⟨wellFormed_decodeWord w, encode_decodeWord w, fun _ hi he => he ▸ (decodeWord_encode hi).symm⟩

/-- Settles O15: one case of `decodeFields` for each value of the op field, and `bpp` of it. -/
theorem opcodeMapSelectsTheFourCommands : Obligations.OpcodeMapSelectsTheFourCommands :=
  ⟨fun _ _ _ => ⟨rfl, rfl, rfl, rfl⟩, rfl, rfl, rfl, rfl, fun _ => rfl⟩

/-- Settles O57: five closed words, evaluated. -/
theorem sampleWordsDecodeAsTheSpecSays : Obligations.SampleWordsDecodeAsTheSpecSays := by
  unfold Obligations.SampleWordsDecodeAsTheSpecSays
  decide

end Sys2Proof
end

section
/-! PROOFS. The invariant family (10_state.md): reset meets the invariant, and every step keeps it. -/

namespace Sys2Proof.Machine

/-! ### Reset (R24, R150) -/

/-- The reset input gives a state of the invariant on every block whose CAP_PIXELS is in range. -/
theorem inv_afterReset {s : State} (hpos : 1 ≤ s.capPixels) (hmax : s.capPixels ≤ Config.capPixelsMax) :
    s.afterReset.Inv where
  srcWf := List.Pairwise.nil
  dstWf := List.Pairwise.nil
  srcBelow := List.forall_mem_nil _
  dstBelow := List.forall_mem_nil _
  capPos := hpos
  capMax := hmax
  busyPhase := rfl
  fatalPhase := rfl
  doneIdle := fun _ => rfl
  outLenZero := fun _ => rfl
  outLenPixels := rfl
  outLenFits := Nat.zero_le _
  resultWritten := fun _ hi => absurd hi (Nat.not_lt_zero _)
  phaseKnows := trivial

theorem config_capPixels_pos : 1 ≤ Config.capPixels := Nat.le_max_left _ _

theorem config_capPixels_le : Config.capPixels ≤ Config.capPixelsMax := Nat.max_le.2 ⟨by decide, Nat.min_le_right _ _⟩

/-! ### What publication needs (R13, R17) -/

/-- No phase is both busy and fatal (R14). -/
theorem Phase.isFatal_of_isBusy {p : Phase} (h : p.isBusy = true) : p.isFatal = false := by
  cases p <;> simp_all [Phase.isBusy, Phase.isFatal]

/-- OUT_LEN holds every result length the capacity allows: it never wraps (R17, R7). -/
theorem outLength_toNat {n : Nat} (h : n ≤ Config.capPixelsMax) : (BitVec.ofNat 32 (outLength n)).toNat = 4 * n := by
  have hmax : Config.capPixelsMax = 2 ^ 30 - 1 := rfl
  rw [outLength, bppPacked4, BitVec.toNat_ofNat, Nat.mod_eq_of_lt (by omega)]

/-- Every byte of an encoded pixel sequence is written. -/
theorem encodePacked4_isSome (m : Memory) {ps : List Pixel} {k : Nat} (h : k < 4 * ps.length) :
    ((encodePacked4 m ps).read k).isSome = true := by
  rw [encodePacked4_read_inside m ps h, List.getElem?_eq_getElem (by simpa using h)]
  rfl

/-- A command that passed its checks has at most CAP_PIXELS pixels (R135). -/
theorem pixels_le_of_checkCommand {len b cap : Nat} {w h : Int} (hc : checkCommand len w h b cap = none) :
    w.toNat * h.toNat ≤ cap := by
  obtain ⟨hv, hcap⟩ := checkCommand_eq_none.1 hc
  obtain ⟨hw, hh, -⟩ := validate_iff.1 hv
  rw [← pixels_of_valid hw hh] at hcap
  exact_mod_cast hcap

/-! ### What the host does to the invariant -/

namespace State.Inv

variable {s : State} (hinv : s.Inv)
include hinv

/-- DONE stands in IDLE alone (R14). -/
theorem done_of_ne_idle (hp : s.phase ≠ .idle) : s.done = false := by
  by_contra hdone
  exact hp (hinv.doneIdle (by simpa using hdone))

/-- The invariant says nothing of the host's side of the block. -/
theorem hostSide (q : List HostAction) (d : Nat) (r : List HostReply) :
    State.Inv { s with hostQueue := q, draws := d, hostReplies := r } := { hinv with }

/-- The invariant says nothing of the operand registers. -/
theorem operands (o : BitVec 2) (w k l : Word) :
    State.Inv { s with op := o, width := w, height := k, len := l } := { hinv with }

/-- A byte written inside SRC keeps its form and its bound (R19). -/
theorem writeSrc {index : Nat} (hi : index < s.bufBytes) (v : Byte) :
    State.Inv { s with src := s.src.write index v } :=
  { hinv with
    srcWf := Memory.write_wf hinv.srcWf index v
    srcBelow := Memory.write_below hinv.srcBelow hi v }

/-- An accepted START enters CHECK with no result (R15). -/
theorem launch (hfatal : s.fatal = false) : s.launch.Inv :=
  { hinv with
    busyPhase := rfl
    fatalPhase := hfatal
    doneIdle := nofun
    outLenZero := fun _ => rfl
    outLenPixels := rfl
    outLenFits := Nat.zero_le _
    resultWritten := fun _ hi => absurd hi (Nat.not_lt_zero _)
    phaseKnows := trivial }

/-- The host's actions keep the invariant. -/
theorem of_hostAct {a : HostAction} {t : State} (h : hostAct a s = .next t) : t.Inv := by
  obtain ⟨q, d, r, rfl⟩ | ⟨rfl, -, hf, -⟩ | ⟨-, o, w, k, l, rfl⟩ | ⟨-, index, v, hi, rfl⟩ | ⟨-, rfl⟩ := hostAct_next h
  · exact hinv.hostSide q d r
  · exact hinv.launch hf
  · exact hinv.operands o w k l
  · exact hinv.writeSrc hi v
  · exact inv_afterReset hinv.capPos hinv.capMax

/-! ### What the engine does to the invariant -/

/-- Both exceptions, taken in CHECK, leave the invariant as it is (R132, R136). -/
theorem raise (hp : s.phase = .check) (e : Exc) : (s.raise e).Inv := by
  have hdone : s.done = false := hinv.done_of_ne_idle (by simp [hp])
  have hfatal : s.fatal = false := by rw [hinv.fatalPhase, hp]; rfl
  cases e with
  | invalidInput =>
    exact
      { hinv with
        busyPhase := rfl
        fatalPhase := hfatal
        doneIdle := fun _ => rfl
        outLenZero := fun _ => rfl
        outLenPixels := rfl
        outLenFits := Nat.zero_le _
        resultWritten := fun _ hi => absurd hi (Nat.not_lt_zero _)
        phaseKnows := trivial }
  | capacity =>
    exact
      { hinv with
        busyPhase := rfl
        fatalPhase := rfl
        doneIdle := fun h => absurd (hdone.symm.trans h) Bool.false_ne_true
        phaseKnows := trivial }

/-- A move between two phases that run a command, planes written on the way. -/
theorem enter (hrun : s.phase.isBusy = true) {bp hb vb : List Triple} {p : Phase} (hp : p.isBusy = true)
    (hknows : State.phaseWf { s with bp := bp, hb := hb, vb := vb, phase := p }) :
    State.Inv { s with bp := bp, hb := hb, vb := vb, phase := p } :=
  { hinv with
    busyPhase := (hinv.busyPhase.trans hrun).trans hp.symm
    fatalPhase := (hinv.fatalPhase.trans (Phase.isFatal_of_isBusy hrun)).trans (Phase.isFatal_of_isBusy hp).symm
    doneIdle := fun h => by simp [Phase.isBusy, hinv.doneIdle h] at hrun
    phaseKnows := hknows }

/-- A result of at most CAP_PIXELS pixels, stored and published (R17, R20). -/
theorem publish (hrun : s.phase.isBusy = true) {ps : List Pixel} (hfit : ps.length ≤ s.capPixels)
    (bp hb vb : List Triple) :
    (State.publish { s with bp := bp, hb := hb, vb := vb, dst := encodePacked4 s.dst ps } (outLength ps.length)).Inv :=
  have hlen := outLength_toNat (hfit.trans hinv.capMax)
  have hbytes : 4 * ps.length ≤ s.bufBytes := Nat.mul_le_mul_left 4 hfit
  { hinv with
    dstWf := encodePacked4_wf hinv.dstWf ps
    dstBelow := encodePacked4_below hinv.dstBelow hbytes
    busyPhase := rfl
    fatalPhase := hinv.fatalPhase.trans (Phase.isFatal_of_isBusy hrun)
    doneIdle := fun _ => rfl
    outLenZero := nofun
    outLenPixels := by rw [State.publish_outLen, hlen, Nat.mul_mod_right]
    outLenFits := hlen.trans_le hbytes
    resultWritten := fun i hi => encodePacked4_isSome s.dst (hlen ▸ hi)
    phaseKnows := trivial }

/-- A body's result, published. -/
theorem publish_body (hrun : s.phase.isBusy = true) {op : BitVec 2} {w h : Nat} {u : State} (hfit : w * h ≤ s.capPixels)
    (hu : bodyOf op w h s = some u) : (u.publish (outLength (w * h))).Inv := by
  obtain ⟨bp, hb, vb, ps, hps, -, rfl⟩ := bodyOf_stores hu
  rw [← hps] at hfit ⊢
  exact hinv.publish hrun hfit bp hb vb

/-- A command run from CHECK to its end. -/
theorem of_exec (hp : s.phase = .check) {i : Instr} {t : State} (h : exec i s = .next t) : t.Inv := by
  obtain ⟨e, -, rfl⟩ | ⟨hc, u, hu, rfl⟩ := exec_next h
  · exact hinv.raise hp e
  · exact hinv.publish_body (by rw [hp]; rfl) (pixels_le_of_checkCommand hc) hu

/-- One phase past CHECK: each stage leaves complete the plane that the next one reads (R44). -/
theorem of_tick (hne : s.phase ≠ .check) {t : State} (h : tick s = .next t) : t.Inv := by
  have hknows := hinv.phaseKnows
  obtain ⟨-, rfl⟩ | ⟨hc, -⟩ | ⟨hp, -, u, hu, rfl⟩ | ⟨hp, px, hd, rfl⟩ | ⟨hp, rfl⟩ | ⟨hp, rfl⟩ | ⟨hp, px, hd, rfl⟩ :=
    tick_next h
  · exact hinv
  · exact absurd hc hne
  · simp only [State.phaseWf, hp] at hknows
    obtain ⟨hacc, -⟩ := hknows
    obtain ⟨-, hwidth, hheight, -⟩ := s.fetch_operands
    refine hinv.publish_body (by rw [hp]; rfl) ?_ hu
    rw [hwidth, hheight]
    exact pixels_le_of_checkCommand hacc
  · simp only [State.phaseWf, hp] at hknows
    obtain ⟨hacc, hop⟩ := hknows
    refine hinv.enter (by rw [hp]; rfl) rfl ⟨hacc, hop, ?_⟩
    rw [List.length_map, (decodePacked4_eq_some.1 hd).1]
  · simp only [State.phaseWf, hp] at hknows
    obtain ⟨hacc, hop, -⟩ := hknows
    exact hinv.enter (by rw [hp]; rfl) rfl ⟨hacc, hop, hblur_length _ _ _⟩
  · simp only [State.phaseWf, hp] at hknows
    obtain ⟨hacc, hop, -⟩ := hknows
    exact hinv.enter (by rw [hp]; rfl) rfl ⟨hacc, hop, vblur_length _ _ _⟩
  · simp only [State.phaseWf, hp] at hknows
    obtain ⟨hacc, -, hvb⟩ := hknows
    have hps : (List.zipWith recombinePixel px s.vb).length = s.cmd.columns * s.cmd.rows := by
      rw [List.length_zipWith, (decodePacked4_eq_some.1 hd).1, hvb, Nat.min_self]
    rw [← hps]
    exact hinv.publish (by rw [hp]; rfl) (hps ▸ pixels_le_of_checkCommand hacc) s.bp s.hb s.vb

/-- The engine's steps keep the invariant. -/
theorem of_engineStep {t : State} (h : engineStep s = .next t) : t.Inv := by
  by_cases hp : s.phase = .check
  · rw [engineStep_check hp] at h
    exact hinv.of_exec hp h
  · rw [engineStep_of_ne_check hp] at h
    exact hinv.of_tick hp h

/-- Every step keeps the invariant, whoever moves. -/
theorem of_step {t : State} (h : step s = .next t) : t.Inv := by
  obtain ⟨-, he⟩ | ⟨-, -, he⟩ | ⟨a, rest, -, ha⟩ := step_cases s
  · exact hinv.of_engineStep (he ▸ h)
  · exact (hinv.hostSide _ _ _).of_engineStep (he ▸ h)
  · exact (hinv.hostSide _ _ _).of_hostAct (ha ▸ h)

end State.Inv

/-! ### The obligations -/

/-- Settles O58: after reset the buffers are empty, and the configured CAP_PIXELS is in R7's range. -/
theorem resetMeetsTheInvariant : Obligations.ResetMeetsTheInvariant :=
  inv_afterReset (s := State.reset) config_capPixels_pos config_capPixels_le

/-- Settles O59: a step is the engine's or the host's, and each case of either keeps every clause. -/
theorem everyStepKeepsTheInvariant : Obligations.EveryStepKeepsTheInvariant := fun _ _ hinv h => hinv.of_step h

end Sys2Proof.Machine
end

section
/-! PROOFS. The host interface family (10_state.md, 20_memory.md section 3): the accesses that are defined, what each
answers, and the ones that are refused. -/

namespace Sys2Proof.Machine

/-! ### Which accesses are defined (R36, U5) -/

/-- A 4-byte access at a register's offset is that register's. -/
theorem regAccess_offset (r : HostReg) (k : HostReg → State) : regAccess r.offset 4 k = .next (k r) := by
  rw [regAccess, if_pos rfl, regAt_offset]

theorem regAccess_of_width {size : Nat} (h : size ≠ 4) (offset : Nat) (k : HostReg → State) :
    regAccess offset size k = .refused .undefinedAccessWidth := if_neg h

/-- The offsets of R39's list are all there are. -/
theorem regAt_eq_none {offset : Nat} (h : offset ∉ [0x00, 0x04, 0x08, 0x0C, 0x10, 0x14, 0x18]) : regAt offset = none := by
  cases hr : regAt offset with
  | none => rfl
  | some r =>
    rw [regAt_eq_some hr] at h
    exact absurd (by cases r <;> decide) h

theorem regAccess_of_offset {offset : Nat} (h : offset ∉ [0x00, 0x04, 0x08, 0x0C, 0x10, 0x14, 0x18])
    (k : HostReg → State) : regAccess offset 4 k = .refused .undefinedRegister := by
  rw [regAccess, if_pos rfl, regAt_eq_none h]

/-- A 1-byte access inside a buffer. -/
theorem bufAccess_inside {s : State} {index : Nat} (h : index < 4 * s.capPixels) (t : State) :
    bufAccess s index 1 t = .next t := by
  rw [bufAccess, if_pos rfl, State.bufBytes, if_pos h]

theorem bufAccess_outside {s : State} {index : Nat} (h : 4 * s.capPixels ≤ index) (t : State) :
    bufAccess s index 1 t = .refused .indexOutOfRange := by
  rw [bufAccess, if_pos rfl, State.bufBytes, if_neg (Nat.not_lt.2 h)]

theorem bufAccess_of_width {size : Nat} (h : size ≠ 1) (s : State) (index : Nat) (t : State) :
    bufAccess s index size t = .refused .undefinedAccessWidth := if_neg h

/-! ### Register accesses (R11, R15 to R17) -/

theorem hostAct_regWrite (r : HostReg) (v : Word) (s : State) :
    hostAct (.regWrite r.offset 4 v) s = .next (s.writeReg r v) := regAccess_offset r _

theorem hostAct_regRead (r : HostReg) (s : State) :
    hostAct (.regRead r.offset 4) s = .next (s.reply (.reg r.offset (s.readReg r))) := regAccess_offset r _

theorem writesLand_of_idle {s : State} (h : s.busy = false) : s.writesLand = true := by rw [State.writesLand, h]; rfl

theorem writesLand_of_busy {s : State} (h : s.busy = true) : s.writesLand = false := by rw [State.writesLand, h]; rfl

/-- While BUSY = 0 a write of an operand register sets it, and it alone (R11). -/
theorem hostAct_operandWrite {s : State} (hb : s.busy = false) (v : Word) :
    hostAct (.regWrite 0x08 4 v) s = .next { s with op := v.setWidth 2 } ∧
      hostAct (.regWrite 0x0C 4 v) s = .next { s with width := v } ∧
      hostAct (.regWrite 0x10 4 v) s = .next { s with height := v } ∧
      hostAct (.regWrite 0x14 4 v) s = .next { s with len := v } :=
  have hland := writesLand_of_idle hb
  ⟨(hostAct_regWrite .op v s).trans (congrArg _ (if_pos hland)),
    (hostAct_regWrite .width v s).trans (congrArg _ (if_pos hland)),
    (hostAct_regWrite .height v s).trans (congrArg _ (if_pos hland)),
    (hostAct_regWrite .len v s).trans (congrArg _ (if_pos hland))⟩

/-- While BUSY = 1 it is dropped (R154). -/
theorem hostAct_operandWrite_busy {s : State} (hb : s.busy = true) (v : Word) {k : Nat}
    (hk : k ∈ [0x08, 0x0C, 0x10, 0x14]) : hostAct (.regWrite k 4 v) s = .next s := by
  have hdrop : ¬ s.writesLand = true := by rw [writesLand_of_busy hb]; exact Bool.false_ne_true
  simp only [List.mem_cons, List.not_mem_nil, or_false] at hk
  obtain rfl | rfl | rfl | rfl := hk
  · exact (hostAct_regWrite .op v s).trans (congrArg _ (if_neg hdrop))
  · exact (hostAct_regWrite .width v s).trans (congrArg _ (if_neg hdrop))
  · exact (hostAct_regWrite .height v s).trans (congrArg _ (if_neg hdrop))
  · exact (hostAct_regWrite .len v s).trans (congrArg _ (if_neg hdrop))

/-- OP's two bits, read back: the upper 30 read as 0 (R11). -/
theorem setWidth_two_setWidth (v : Word) : (v.setWidth 2).setWidth 32 = v &&& 3 := by
  have hmask : (3 : Word).toNat = 2 ^ 2 - 1 := rfl
  apply BitVec.eq_of_toNat_eq
  rw [BitVec.toNat_setWidth, BitVec.toNat_setWidth, BitVec.toNat_and, hmask, Nat.and_two_pow_sub_one_eq_mod]
  omega

/-- The STATUS word is a number below 8 (R16). -/
theorem status_lt (s : State) : s.busy.toNat + 2 * s.done.toNat + 4 * s.fatal.toNat < 8 := by
  have hb := s.busy.toNat_le
  have hd := s.done.toNat_le
  have hf := s.fatal.toNat_le
  omega

/-- The bits of STATUS (R16). -/
theorem status_bits (s : State) :
    s.status.getLsbD 0 = s.busy ∧ s.status.getLsbD 1 = s.done ∧ s.status.getLsbD 2 = s.fatal := by
  unfold State.status
  cases s.busy <;> cases s.done <;> cases s.fatal <;> decide

/-- Above bit 2 STATUS reads as 0 (R16). -/
theorem status_high_bits (s : State) {i : Nat} (hi : 3 ≤ i) : s.status.getLsbD i = false := by
  have hlt : s.busy.toNat + 2 * s.done.toNat + 4 * s.fatal.toNat < 2 ^ i :=
    (status_lt s).trans_le (Nat.pow_le_pow_right (n := 2) Nat.two_pos hi)
  rw [State.status, BitVec.getLsbD_ofNat, Nat.testBit_eq_false_of_lt hlt, Bool.and_false]

/-! ### Buffer accesses (R19, R20, R154, R155) -/

theorem hostAct_srcRead {s : State} {i : Nat} (h : i < 4 * s.capPixels) :
    hostAct (.srcRead i 1) s = .next (s.readSrc i) := bufAccess_inside h _

theorem hostAct_dstRead {s : State} {i : Nat} (h : i < 4 * s.capPixels) :
    hostAct (.dstRead i 1) s = .next (s.readDst i) := bufAccess_inside h _

theorem hostAct_srcWrite {s : State} {i : Nat} (h : i < 4 * s.capPixels) (v : Byte) :
    hostAct (.srcWrite i 1 v) s = .next (s.writeSrc i v) := bufAccess_inside h _

theorem hostAct_dstWrite {s : State} {i : Nat} (h : i < 4 * s.capPixels) (v : Byte) :
    hostAct (.dstWrite i 1 v) s = .next s := bufAccess_inside h _

theorem writeSrc_of_idle {s : State} (hb : s.busy = false) (i : Nat) (v : Byte) :
    s.writeSrc i v = { s with src := s.src.write i v } := if_pos (writesLand_of_idle hb)

theorem writeSrc_of_busy {s : State} (hb : s.busy = true) (i : Nat) (v : Byte) : s.writeSrc i v = s :=
  if_neg (by rw [writesLand_of_busy hb]; exact Bool.false_ne_true)

theorem readSrc_of_busy {s : State} (hb : s.busy = true) (i : Nat) : s.readSrc i = s.replyFree (.src i) := if_pos hb

theorem readSrc_of_written {s : State} (hb : s.busy = false) {i : Nat} {v : Byte} (hv : s.src.read i = some v) :
    s.readSrc i = s.reply (.src i v) := by
  rw [State.readSrc, if_neg (Bool.eq_false_iff.1 hb), hv]

theorem readSrc_of_unwritten {s : State} (hb : s.busy = false) {i : Nat} (hv : s.src.read i = none) :
    s.readSrc i = s.replyFree (.src i) := by
  rw [State.readSrc, if_neg (Bool.eq_false_iff.1 hb), hv]

theorem readDst_of_readable {s : State} {i : Nat} {v : Byte} (hdone : s.done = true) (hi : i < s.outLen.toNat)
    (hv : s.dst.read i = some v) : s.readDst i = s.reply (.dst i v) := by
  rw [State.readDst, if_pos (by simp [State.resultReadable, hdone, hi]), hv]

theorem readDst_of_not_readable {s : State} {i : Nat} (h : s.done = false ∨ s.outLen.toNat ≤ i) :
    s.readDst i = s.replyFree (.dst i) := by
  have hnot : ¬ s.resultReadable i = true := by
    rw [State.resultReadable, Bool.and_eq_true, decide_eq_true_iff]
    rintro ⟨hdone, hi⟩
    obtain hd | hd := h
    · exact Bool.false_ne_true (hd.symm.trans hdone)
    · exact absurd hi (Nat.not_lt.2 hd)
  exact if_neg hnot

/-! ### What a host access leaves of a published result (R153) -/

/-- Of the host's actions only an accepted START and the reset input touch DONE, OUT_LEN or DST. -/
theorem hostAct_keeps_result {a : HostAction} {s t : State} (h : hostAct a s = .next t) (hreset : a ≠ .reset)
    (hstart : ∀ v, a = .regWrite 0 4 v → v.getLsbD 0 = false) :
    t.done = s.done ∧ t.outLen = s.outLen ∧ t.dst = s.dst := by
  obtain ⟨q, d, r, rfl⟩ | ⟨-, -, -, v, ha, hv⟩ | ⟨-, o, w, k, l, rfl⟩ | ⟨-, index, v, -, rfl⟩ | ⟨ha, -⟩ := hostAct_next h
  · exact ⟨rfl, rfl, rfl⟩
  · exact absurd ((hstart v ha).symm.trans hv) Bool.false_ne_true
  · exact ⟨rfl, rfl, rfl⟩
  · exact ⟨rfl, rfl, rfl⟩
  · exact absurd ha hreset

/-! ### The obligations -/

/-- Settles O10: the gate of SRC and the operand registers, closed by BUSY and open without it. -/
theorem hostWritesAreDroppedWhileBusy : Obligations.HostWritesAreDroppedWhileBusy := by
  refine ⟨fun s i v hb hi => ⟨?_, ?_⟩, fun s k v hb hk => hostAct_operandWrite_busy hb v hk,
    fun s i hb hi => ⟨fun v hv => ?_, fun hv => ?_⟩, fun s i v hb hi => ⟨_, hostAct_srcWrite hi v, ?_⟩,
    fun s v hb => hostAct_operandWrite hb v⟩
  · rw [hostAct_srcWrite hi, writeSrc_of_busy hb]
  · rw [hostAct_srcRead hi, readSrc_of_busy hb]; rfl
  · rw [hostAct_srcRead hi, readSrc_of_written hb hv]; rfl
  · rw [hostAct_srcRead hi, readSrc_of_unwritten hb hv]; rfl
  · rw [writeSrc_of_idle hb]
    exact ⟨Memory.read_write_same _ _ _, fun j hj => Memory.read_write_other _ _ hj, rfl⟩

/-- Settles O13: DONE stands in IDLE, where the engine keeps the state, and no other host action touches the result. -/
theorem resultStaysUntilTheNextStartOrReset : Obligations.ResultStaysUntilTheNextStartOrReset := by
  intro s t hinv hdone h hhead
  have hp : s.phase = .idle := hinv.doneIdle hdone
  obtain ⟨hq, -⟩ | ⟨-, hb, -⟩ | ⟨a, rest, hq, ha⟩ := step_cases s
  · rw [step_of_idle hp hq] at h
    cases h
    exact ⟨hdone, rfl, fun _ => rfl⟩
  · rw [hinv.busyPhase, hp] at hb
    cases hb
  · obtain ⟨hreset, hstart⟩ := hhead a (by rw [hq]; rfl)
    obtain ⟨hdone', hlen, hdst⟩ := hostAct_keeps_result (ha ▸ h) hreset hstart
    exact ⟨hdone'.trans hdone, hlen, fun i => congrArg (Memory.read · i) hdst⟩

/-- Settles O4: the reset state's buffers are empty, and the model's own fields are carried over. -/
theorem resetInputForgetsBothBuffers : Obligations.ResetInputForgetsBothBuffers := fun s =>
  ⟨s.afterReset, hostAct_reset s, fun _ => ⟨rfl, rfl⟩, rfl, rfl, rfl, rfl, rfl⟩

/-- Settles O2: the started command is GRAY with zero operands, which fails validation. -/
theorem startAfterResetIsRejected : Obligations.StartAfterResetIsRejected := by
  intro src dst cmd bp hb vb v hv
  have hfetch (s : State) (hcmd : s.cmd = ⟨0, 0, 0, 0⟩) : s.fetch = .gray 0 0 0 := by rw [State.fetch_eq, hcmd]; rfl
  refine ⟨_, _, (hostAct_ctrlWrite _ v).trans (congrArg _ (writeCtrl_of_accepted hv rfl rfl)), hfetch _ rfl, ?_, rfl⟩
  rw [step_of_no_host rfl, engineStep_check rfl, hfetch _ rfl, exec_raises (checkCommand_of_invalid (by decide))]
  rfl

/-- Settles O7: a write that lands sets the register, and a read hands back what stands there. -/
theorem operandRegistersReadBackWhatWasWritten : Obligations.OperandRegistersReadBackWhatWasWritten := by
  refine fun s v => ⟨fun hb => hostAct_operandWrite hb v, ?_, hostAct_regRead .width _, hostAct_regRead .height _,
    hostAct_regRead .len _⟩
  rw [← setWidth_two_setWidth]
  exact hostAct_regRead .op _

/-- Settles O8: the three bits, the zeros above them, and the two registers that take no write. -/
theorem statusHoldsTheThreeFlagsAndIgnoresWrites : Obligations.StatusHoldsTheThreeFlagsAndIgnoresWrites := fun s v =>
  have ⟨hbusy, hdone, hfatal⟩ := status_bits s
  ⟨hbusy, hdone, hfatal, fun _ => status_high_bits s, hostAct_regRead .status s, hostAct_regRead .outLen s,
    hostAct_regWrite .status v s, hostAct_regWrite .outLen v s⟩

/-- Settles O9: each of the three reads hands the host one value. -/
theorem hostReadsChangeNothingInTheBlock : Obligations.HostReadsChangeNothingInTheBlock := by
  rintro _ s t ⟨k, n, rfl | rfl | rfl⟩ h
  · obtain ⟨-, r, -, rfl⟩ := regAccess_next h
    exact ⟨s.draws, _, rfl⟩
  · obtain ⟨-, -, rfl⟩ := bufAccess_next h
    obtain ⟨v, d, hv⟩ := readSrc_frame s k
    exact ⟨d, _, hv⟩
  · obtain ⟨-, -, rfl⟩ := bufAccess_next h
    obtain ⟨v, d, hv⟩ := readDst_frame s k
    exact ⟨d, _, hv⟩

/-- Settles O11: the read's two branches, and the write that has none. -/
theorem dstReadsReturnTheResultOrAFreeValue : Obligations.DstReadsReturnTheResultOrAFreeValue := by
  refine fun s i v hi => ⟨fun hdone hlt hv => ?_, fun hnot => ?_, hostAct_dstWrite hi v⟩
  · rw [hostAct_dstRead hi, readDst_of_readable hdone hlt hv]; rfl
  · rw [hostAct_dstRead hi, readDst_of_not_readable hnot]; rfl

/-- Settles O12: the refusals of a register access and of a buffer access, by width first. -/
theorem undefinedAccessesAreRefused : Obligations.UndefinedAccessesAreRefused :=
  ⟨fun _ k _ _ hn => ⟨regAccess_of_width hn k _, regAccess_of_width hn k _⟩,
    fun _ _ _ hk => ⟨regAccess_of_offset hk _, regAccess_of_offset hk _⟩,
    fun s k _ _ hn => ⟨bufAccess_of_width hn s k _, bufAccess_of_width hn s k _, bufAccess_of_width hn s k _,
      bufAccess_of_width hn s k _⟩,
    fun _ _ _ hk => ⟨bufAccess_outside hk _, bufAccess_outside hk _, bufAccess_outside hk _, bufAccess_outside hk _⟩⟩

end Sys2Proof.Machine
end

section
/-! PROOFS. The codec and arithmetic family (40_validator_codec.md): saturation, luma and the bright threshold, the two
layouts, and the word view of a pixel. -/

namespace Sys2Proof.Machine

/-! ### Arithmetic (R77 to R79) -/

theorem clamp8_of_neg {v : Int} (h : v < 0) : clamp8 v = 0 := if_pos h

theorem clamp8_of_large {v : Int} (h : 255 < v) : clamp8 v = 255 := by
  have hlo : ¬ v < (chMin : Int) := by simp only [chMin]; omega
  rw [clamp8, if_neg hlo]
  exact if_pos h

/-- The weighted sum of R78 is at most 1000 times 255. -/
theorem luma_numerator_le (r g b : Byte) : 299 * r.toNat + 587 * g.toNat + 114 * b.toNat ≤ 255000 := by
  have hr := r.isLt
  have hg := g.isLt
  have hb := b.isLt
  omega

theorem luma8_mono {r g b r' g' b' : Byte} (hr : r ≤ r') (hg : g ≤ g') (hb : b ≤ b') : luma8 r g b ≤ luma8 r' g' b' := by
  rw [BitVec.le_def] at hr hg hb ⊢
  rw [luma8_toNat, luma8_toNat]
  gcongr

/-- The threshold against the unrounded sum (R116): the quotient exceeds 180 exactly from 181 whole thousands. -/
theorem luma8_bright_iff (r g b : Byte) :
    180 < (luma8 r g b).toNat ↔ 181000 ≤ 299 * r.toNat + 587 * g.toNat + 114 * b.toNat := by
  rw [luma8_toNat]
  omega

/-! ### The word view of a pixel (R32, R54) -/

/-- The word's value: the pixel's bytes in rising place value. -/
theorem Pixel.word_toNat (p : Pixel) :
    p.word.toNat = p.b.toNat + 2 ^ 8 * p.g.toNat + 2 ^ 16 * p.r.toNat + 2 ^ 24 * p.a.toNat := by
  rw [Pixel.word, BitVec.toNat_append, BitVec.toNat_append, BitVec.toNat_append,
    ← Nat.shiftLeft_add_eq_or_of_lt p.b.isLt, ← Nat.shiftLeft_add_eq_or_of_lt p.g.isLt,
    ← Nat.shiftLeft_add_eq_or_of_lt p.r.isLt]
  simp only [Nat.shiftLeft_eq]
  omega

/-- A byte of a word, by its value. -/
theorem extractLsb'_eq_of_toNat {w : Word} {start : Nat} {c : Byte} (h : w.toNat / 2 ^ start % 2 ^ 8 = c.toNat) :
    w.extractLsb' start 8 = c := by
  apply BitVec.eq_of_toNat_eq
  rw [BitVec.extractLsb'_toNat, Nat.shiftRight_eq_div_pow, h]

/-! ### The obligations -/

/-- Settles O16: the three branches of `clamp8`. -/
theorem clampSaturatesAndNeverWraps : Obligations.ClampSaturatesAndNeverWraps := by
  refine fun v => ⟨clamp8_of_neg, clamp8_of_large, fun hlo hhi => ?_⟩
  lift v to Nat using hlo
  exact congrArg Nat.cast (clamp8_of_nat_le (by omega))

/-- Settles O17: the bounds follow from the numerator's, and a rising argument raises the numerator. -/
theorem lumaIsTheExactFloorAndMonotone : Obligations.LumaIsTheExactFloorAndMonotone := by
  refine ⟨fun r g b => ?_, fun _ _ _ _ _ _ hr hg hb => luma8_mono hr hg hb⟩
  have hle := luma_numerator_le r g b
  exact ⟨hle, by omega, by omega, luma8_toNat r g b⟩

/-- Settles O20: the two round trips of the codec. -/
theorem packed4RoundTrip : Obligations.Packed4RoundTrip :=
  ⟨decodePacked4_encodePacked4, fun _ d _ _ hd _ hk => encodePacked4_read_decoded hd d hk⟩

/-- Settles O21: a written buffer is a luma plane, whose samples are its bytes. -/
theorem decodeLumaPlaneReadsOneUnsignedByteAPixel : Obligations.DecodeLumaPlaneReadsOneUnsignedByteAPixel := by
  refine ⟨fun m n hm => ?_, by decide⟩
  obtain ⟨ys, hys⟩ := decodeLumaPlane_isSome hm
  obtain ⟨hlen, hsample⟩ := decodeLumaPlane_eq_some.1 hys
  exact ⟨ys, hys, hlen, fun i y hi hy => (hsample i hi).symm.trans hy⟩

/-- Settles O22: the fields are the digits of the word's value to the base 256. -/
theorem pixelWordIsLittleEndian : Obligations.PixelWordIsLittleEndian := by
  intro p
  have hword := p.word_toNat
  have hb := p.b.isLt
  have hg := p.g.isLt
  have hr := p.r.isLt
  have ha := p.a.isLt
  refine ⟨extractLsb'_eq_of_toNat ?_, extractLsb'_eq_of_toNat ?_, extractLsb'_eq_of_toNat ?_, extractLsb'_eq_of_toNat ?_,
    ?_⟩
  · omega
  · omega
  · omega
  · omega
  · simp only [Pixel.bytes, fromBytesLE]
    omega

/-- Settles O42: the two forms of the threshold select the same branch of the bright pass. -/
theorem brightMeansWeightedSumAtLeast181000 : Obligations.BrightMeansWeightedSumAtLeast181000 := by
  intro p
  have hiff := luma8_bright_iff p.r p.g p.b
  refine ⟨hiff, ?_⟩
  split
  · next h => exact brightPixel_of_bright (hiff.2 h)
  · next h => exact brightPixel_of_not_bright (Nat.not_lt.1 (mt hiff.1 h))

end Sys2Proof.Machine
end

section
/-! PROOFS. The command family (70_reset_and_hazards.md section 5, 60_exceptions.md): how a command ends, what its result's
length says, and what each end leaves unchanged. -/

namespace Sys2Proof.Machine

/-! ### A command that runs to its end -/

/-- The bytes a valid command reads. -/
theorem len_of_validFor {len b : Nat} {w h : Int} (hv : ValidFor b w h len) : len = b * (w.toNat * h.toNat) :=
  (len_of_valid (validate_iff.2 hv)).trans (Nat.mul_comm _ _)

/-- A command whose input is written answers a next state (R161, U2). -/
theorem exec_completes {i : Instr} {s : State} (hs : s.src.writtenTo i.len) : ∃ t, exec i s = .next t := by
  obtain ⟨e, -, he⟩ | ⟨hc, ⟨u, -, hu⟩ | ⟨hnone, -⟩⟩ := exec_cases i s
  · exact ⟨_, he⟩
  · exact ⟨_, hu⟩
  · have hlen := len_of_validFor (validate_iff.1 (checkCommand_eq_none.1 hc).1)
    obtain ⟨u, hu⟩ := bodyOf_isSome (hlen ▸ hs)
    cases hnone.symm.trans hu

/-- A buffer that decodes has its first 4n bytes written. -/
theorem decodePacked4_written {m : Memory} {n : Nat} {px : List Pixel} (hd : decodePacked4 m n = some px) :
    m.writtenTo (4 * n) := fun k hk => by
  rw [← encodePacked4_read_decoded hd [] hk]
  exact encodePacked4_isSome [] ((decodePacked4_eq_some.1 hd).1.symm ▸ hk)

/-- A buffer that is a luma plane has its first n bytes written. -/
theorem decodeLumaPlane_written {m : Memory} {n : Nat} {ys : List Byte} (hd : decodeLumaPlane m n = some ys) :
    m.writtenTo n := fun k hk => by
  obtain ⟨hlen, hsample⟩ := decodeLumaPlane_eq_some.1 hd
  rw [hsample k hk, List.getElem?_eq_getElem (hlen ▸ hk)]
  rfl

/-- LUMAGRAY reads one byte a pixel (R52). -/
theorem bpp_lumagray : bpp 2#2 = 1 := rfl

/-- A body answers only when every byte its command reads is written. -/
theorem bodyOf_written {op : BitVec 2} {w h : Nat} {s u : State} (hu : bodyOf op w h s = some u) :
    s.src.writtenTo (bpp op * (w * h)) := by
  unfold bodyOf at hu
  split at hu
  · obtain ⟨px, hd, -⟩ := grayBody_eq_some.1 hu
    exact decodePacked4_written hd
  · obtain ⟨px, hd, -⟩ := negBody_eq_some.1 hu
    exact decodePacked4_written hd
  · obtain ⟨ys, hd, -⟩ := lumagrayBody_eq_some.1 hu
    rw [bpp_lumagray, Nat.one_mul]
    exact decodeLumaPlane_written hd
  · obtain ⟨px, hd, -⟩ := bloomBody_eq_some.1 hu
    exact decodePacked4_written hd

/-! ### The published result (R17) -/

/-- A valid command within capacity publishes its pixels and leaves FATAL alone. -/
theorem exec_published {i : Instr} {s t : State} (hv : ValidFor (bpp i.op) i.width i.height i.len)
    (hcap : i.width * i.height ≤ s.capPixels) (hmax : s.capPixels ≤ Config.capPixelsMax) (h : exec i s = .next t) :
    t.publishedFrom s (i.width * i.height) := by
  obtain ⟨u, hu, rfl⟩ := exec_next_of_valid hv hcap h
  obtain ⟨hw, hh, -⟩ := hv
  have hpixels := pixels_of_valid hw hh
  refine ⟨rfl, rfl, (u.publish_fatal _).trans (bodyOf_fatal hu), rfl, ?_⟩
  rw [← hpixels, State.publish_outLen, outLength_toNat (by omega)]
  rfl

/-- The result of a valid command within capacity, in bytes: at least one pixel's (R52, R133). -/
theorem four_le_result {i : Instr} {s t : State} (hv : ValidFor (bpp i.op) i.width i.height i.len)
    (hcap : i.width * i.height ≤ s.capPixels) (hmax : s.capPixels ≤ Config.capPixelsMax) (h : exec i s = .next t) :
    4 ≤ t.outLen.toNat := by
  obtain ⟨-, -, -, -, hlen⟩ := exec_published hv hcap hmax h
  obtain ⟨hw, hh, -⟩ := hv
  have hpos : 0 < i.width * i.height := Int.mul_pos hw hh
  omega

/-! ### The two exceptional ends (R132, R136) -/

theorem exec_next_of_invalid {i : Instr} {s t : State} (hv : ¬ ValidFor (bpp i.op) i.width i.height i.len)
    (h : exec i s = .next t) : t = s.raise .invalidInput := by
  rw [exec_raises (checkCommand_of_invalid hv)] at h
  exact (Host.Outcome.next.inj h).symm

theorem exec_next_of_over_capacity {i : Instr} {s t : State} (hv : ValidFor (bpp i.op) i.width i.height i.len)
    (hcap : (s.capPixels : Int) < i.width * i.height) (h : exec i s = .next t) : t = s.raise .capacity := by
  rw [exec_raises (checkCommand_of_over_capacity hv hcap)] at h
  exact (Host.Outcome.next.inj h).symm

/-! ### The frame of a command -/

/-- What a command may write: the flags, OUT_LEN, the phase, DST and the planes. -/
theorem agreesOutsideResult_update (s : State) (busy done fatal : Bool) (outLen : Word) (phase : Phase) (dst : Memory)
    (bp hb vb : List Triple) :
    s.agreesOutsideResult
      { s with
        busy := busy, done := done, fatal := fatal, outLen := outLen, phase := phase
        dst := dst, bp := bp, hb := hb, vb := vb } :=
  ⟨rfl, rfl, rfl, rfl, rfl, rfl, rfl, rfl, rfl, rfl, rfl⟩

theorem raise_agreesOutsideResult (s : State) (e : Exc) : s.agreesOutsideResult (s.raise e) := by
  cases e <;> exact agreesOutsideResult_update s _ _ _ _ _ _ _ _ _

theorem publish_body_agreesOutsideResult {op : BitVec 2} {w h n : Nat} {s u : State} (hu : bodyOf op w h s = some u) :
    s.agreesOutsideResult (u.publish n) := by
  obtain ⟨bp, hb, vb, ps, -, -, rfl⟩ := bodyOf_stores hu
  exact agreesOutsideResult_update s _ _ _ _ _ _ _ _ _

/-- No end of a command writes anything but the result, the flags, the phase and the planes (R11, R12, R19). -/
theorem exec_agreesOutsideResult {i : Instr} {s t : State} (h : exec i s = .next t) : s.agreesOutsideResult t := by
  obtain ⟨e, -, rfl⟩ | ⟨-, u, hu, rfl⟩ := exec_next h
  · exact raise_agreesOutsideResult s e
  · exact publish_body_agreesOutsideResult hu

/-- FATAL moves at Fatal(Capacity) alone (R136). -/
theorem exec_keeps_fatal {i : Instr} {s t : State} (h : exec i s = .next t)
    (hend : i.width * i.height ≤ s.capPixels ∨ ¬ ValidFor (bpp i.op) i.width i.height i.len) : t.fatal = s.fatal := by
  obtain hcap | hv := hend
  · exact (exec_fatal h).resolve_right fun hover => hcap.not_gt hover.1
  · rw [exec_next_of_invalid hv h]
    rfl

/-- Fatal(Capacity) leaves DONE and OUT_LEN as they are (R136). -/
theorem exec_over_capacity_keeps_result {i : Instr} {s t : State} (h : exec i s = .next t)
    (hv : ValidFor (bpp i.op) i.width i.height i.len) (hcap : (s.capPixels : Int) < i.width * i.height) :
    t.done = s.done ∧ t.outLen = s.outLen := by
  rw [exec_next_of_over_capacity hv hcap h]
  exact ⟨rfl, rfl⟩

/-- The planes are BLOOM's, and only of a BLOOM that passed its checks (R21). -/
theorem exec_keeps_planes {i : Instr} {s t : State} (h : exec i s = .next t)
    (hend : i.op ≠ 3 ∨ ¬ (ValidFor (bpp i.op) i.width i.height i.len ∧ i.width * i.height ≤ s.capPixels)) :
    t.bp = s.bp ∧ t.hb = s.hb ∧ t.vb = s.vb := by
  obtain ⟨e, -, rfl⟩ | ⟨hc, u, hu, rfl⟩ := exec_next h
  · cases e <;> exact ⟨rfl, rfl, rfl⟩
  · obtain ⟨hv, hcap⟩ := checkCommand_eq_none.1 hc
    obtain ⟨bp, hb, vb, ps, -, hplanes, rfl⟩ := bodyOf_stores hu
    exact hplanes (hend.resolve_right (not_not.2 ⟨validate_iff.1 hv, hcap⟩))

/-- Of DST a command writes the first 4 * width * height bytes, and only when it passed its checks (R20). -/
theorem exec_dst_frame {i : Instr} {s t : State} (h : exec i s = .next t) {a : Nat}
    (ha : ¬ (ValidFor (bpp i.op) i.width i.height i.len ∧ i.width * i.height ≤ s.capPixels ∧
      (a : Int) < 4 * (i.width * i.height))) : t.dst.read a = s.dst.read a := by
  obtain ⟨e, -, rfl⟩ | ⟨hc, u, hu, rfl⟩ := exec_next h
  · cases e <;> rfl
  · obtain ⟨hv, hcap⟩ := checkCommand_eq_none.1 hc
    obtain ⟨hw, hh, -⟩ := validate_iff.1 hv
    have hout : ¬ (a : Int) < 4 * (i.width * i.height) := fun hlt => ha ⟨validate_iff.1 hv, hcap, hlt⟩
    rw [← pixels_of_valid hw hh] at hout
    obtain ⟨bp, hb, vb, ps, hps, -, rfl⟩ := bodyOf_stores hu
    exact encodePacked4_read_beyond s.dst ps (by omega)

/-! ### The obligations -/

/-- Settles O25: `cmd` is one of the pieces that no end of a command writes. -/
theorem commandsKeepTheLatchedCommand : Obligations.CommandsKeepTheLatchedCommand := fun _ _ _ h => by
  obtain ⟨-, -, -, -, hcmd, -⟩ := exec_agreesOutsideResult h
  exact hcmd

/-- Settles O27: a result of a valid command has a pixel at least; the other end with DONE = 1 is InvalidInput's, with
length 0. -/
theorem emptyResultMeansRejected : Obligations.EmptyResultMeansRejected := by
  intro i s t hs hmax h hdone
  by_cases hv : ValidFor (bpp i.op) i.width i.height i.len
  · have hcap : i.width * i.height ≤ s.capPixels := by
      by_contra hover
      obtain ⟨hsdone, -⟩ := exec_over_capacity_keeps_result h hv (Int.not_le.1 hover)
      obtain ⟨-, -, hlaunched, -⟩ := hs
      exact Bool.false_ne_true (hlaunched.symm.trans (hsdone.symm.trans hdone))
    have hfour := four_le_result hv hcap hmax h
    have hne : t.outLen ≠ 0 := by
      rintro hzero
      rw [hzero] at hfour
      exact absurd hfour (by decide)
    exact ⟨iff_of_false hne (not_not.2 hv), fun _ => hfour⟩
  · have hzero : t.outLen = 0 := by rw [exec_next_of_invalid hv h]; rfl
    exact ⟨iff_of_true hzero hv, fun hne => absurd hzero hne⟩

/-- Settles O28: the body of a command that passed its checks answers only on written input. -/
theorem unwrittenInputFaults : Obligations.UnwrittenInputFaults := by
  intro i s hv hcap hsrc
  have hnone := checkCommand_of_valid hv hcap
  obtain ⟨e, hc, -⟩ | ⟨-, ⟨u, hu, -⟩ | ⟨-, hfault⟩⟩ := exec_cases i s
  · cases hnone.symm.trans hc
  · exact absurd (len_of_validFor hv ▸ bodyOf_written hu) hsrc
  · exact hfault

/-- Settles O36: the frame of every command, with the planes no point filter writes. -/
theorem pointFilterFrame : Obligations.PointFilterFrame := fun _ _ _ hop h =>
  have ⟨hbp, hhb, hvb⟩ := exec_keeps_planes h (.inl hop)
  ⟨exec_agreesOutsideResult h, hbp, hhb, hvb, exec_keeps_fatal h, exec_over_capacity_keeps_result h,
    fun _ => exec_dst_frame h⟩

/-- Settles O44: the frame of every command, with the planes kept where BLOOM does not run. -/
theorem bloomFrame : Obligations.BloomFrame := fun _ _ _ _ _ h =>
  ⟨exec_agreesOutsideResult h, exec_keeps_fatal h, exec_over_capacity_keeps_result h,
    fun hnot => exec_keeps_planes h (.inr hnot), fun _ => exec_dst_frame h⟩

/-- Settles O49: a written input leaves no fault, and each of the three ends gives its state. -/
theorem everyCommandEndsInExactlyOneOfThreeWays : Obligations.EveryCommandEndsInExactlyOneOfThreeWays := by
  intro i s hs hmax hsrc
  obtain ⟨t, h⟩ := exec_completes hsrc
  obtain ⟨-, -, hdone, hfatal, hlen⟩ := hs
  refine ⟨t, h, fun hv hcap => ?_, fun hv => ?_, fun hv hcap => ?_⟩
  · obtain ⟨hbusy, hdone', hfatal', hphase, hlen'⟩ := exec_published hv hcap hmax h
    exact ⟨hbusy, hdone', hfatal'.trans hfatal, hphase, hlen'⟩
  · rw [exec_next_of_invalid hv h]
    exact ⟨rfl, rfl, hfatal, rfl, rfl, rfl⟩
  · rw [exec_next_of_over_capacity hv hcap h]
    exact ⟨rfl, hdone, rfl, rfl, hlen, rfl⟩

end Sys2Proof.Machine
end

section
/-! PROOFS. The point filter results (41_point_filters.md): each filter completes and writes its function of every pixel,
and of that pixel alone. -/

namespace Sys2Proof.Machine

/-! ### One pixel of a filter's output -/

/-- Output pixel `i` of a Packed4 filter is the filter's function of input pixel `i`. -/
theorem encodePacked4_map_decoded {m : Memory} {n i : Nat} {px : List Pixel} {p : Pixel} (d : Memory) (f : Pixel → Pixel)
    (hd : decodePacked4 m n = some px) (hi : i < n) (hp : pixelAt m i = some p) :
    pixelAt (encodePacked4 d (px.map f)) i = some (f p) := by
  obtain ⟨-, hpixel⟩ := decodePacked4_eq_some.1 hd
  exact encodePacked4_map_pixel d f ((hpixel i hi).symm.trans hp)

/-- Output pixel `i` of a LumaPlane filter is the filter's function of input byte `i`. -/
theorem encodePacked4_map_luma {m : Memory} {n i : Nat} {ys : List Byte} {y : Byte} (d : Memory) (f : Byte → Pixel)
    (hd : decodeLumaPlane m n = some ys) (hi : i < n) (hy : m.read i = some y) :
    pixelAt (encodePacked4 d (ys.map f)) i = some (f y) := by
  obtain ⟨-, hsample⟩ := decodeLumaPlane_eq_some.1 hd
  exact encodePacked4_map_pixel d f ((hsample i hi).symm.trans hy)

/-! ### No neighbour is used (R96) -/

/-- Buffers that agree in the four bytes of pixel `i` hold the same pixel there. -/
theorem pixelAt_congr {m m' : Memory} {i : Nat} (h : ∀ k < 4, m.read (4 * i + k) = m'.read (4 * i + k)) :
    pixelAt m i = pixelAt m' i := by
  have h0 : m.read (4 * i) = m'.read (4 * i) := h 0 (by decide)
  rw [pixelAt, pixelAt, h0, h 1 (by decide), h 2 (by decide), h 3 (by decide)]

/-- Packed4 inputs that agree in pixel `i` give outputs of one filter that agree in pixel `i`. -/
theorem decodedPixel_congr {m m' : Memory} {n n' i : Nat} {px px' : List Pixel} (d d' : Memory) (f : Pixel → Pixel)
    (hd : decodePacked4 m n = some px) (hd' : decodePacked4 m' n' = some px') (hi : i < n) (hi' : i < n')
    (h : ∀ k < 4, m.read (4 * i + k) = m'.read (4 * i + k)) :
    ∃ p, pixelAt (encodePacked4 d (px.map f)) i = some p ∧ pixelAt (encodePacked4 d' (px'.map f)) i = some p := by
  obtain ⟨p, hp, -⟩ := decodePacked4_pixel hd hi
  exact ⟨f p, encodePacked4_map_decoded d f hd hi hp, encodePacked4_map_decoded d' f hd' hi' (pixelAt_congr h ▸ hp)⟩

/-- A point filter's body gives the same output pixel where its input pixels agree, whatever the shapes. -/
theorem bodyOf_pixel_congr {op : BitVec 2} (hop : op ≠ 3) {w h w' h' i : Nat} {s s' u u' : State}
    (hu : bodyOf op w h s = some u) (hu' : bodyOf op w' h' s' = some u') (hi : i < w * h) (hi' : i < w' * h')
    (hsrc : ∀ k < bpp op, s.src.read (bpp op * i + k) = s'.src.read (bpp op * i + k)) :
    ∃ p, pixelAt u.dst i = some p ∧ pixelAt u'.dst i = some p := by
  unfold bodyOf at hu hu'
  split at hu
  · obtain ⟨px, hd, rfl⟩ := grayBody_eq_some.1 hu
    obtain ⟨px', hd', rfl⟩ := grayBody_eq_some.1 hu'
    exact decodedPixel_congr s.dst s'.dst grayPixel hd hd' hi hi' hsrc
  · obtain ⟨px, hd, rfl⟩ := negBody_eq_some.1 hu
    obtain ⟨px', hd', rfl⟩ := negBody_eq_some.1 hu'
    exact decodedPixel_congr s.dst s'.dst negPixel hd hd' hi hi' hsrc
  · obtain ⟨ys, hd, rfl⟩ := lumagrayBody_eq_some.1 hu
    obtain ⟨ys', hd', rfl⟩ := lumagrayBody_eq_some.1 hu'
    obtain ⟨y, hy⟩ := Option.isSome_iff_exists.1 (decodeLumaPlane_written hd i hi)
    have hbyte : s.src.read i = s'.src.read i := by simpa [bpp_lumagray] using hsrc 0 (by decide)
    exact ⟨lumagrayPixel y, encodePacked4_map_luma s.dst lumagrayPixel hd hi hy,
      encodePacked4_map_luma s'.dst lumagrayPixel hd' hi' (hbyte ▸ hy)⟩
  · exact absurd rfl hop

/-- Two commands of one point filter that complete keep the planes and agree in every output pixel whose input pixels
agree. -/
theorem exec_pixel_congr {i i' : Instr} (hop : i.op ≠ 3) (hsame : i'.op = i.op) {s s' t t' : State}
    (hv : ValidFor (bpp i.op) i.width i.height i.len) (hcap : i.width * i.height ≤ s.capPixels)
    (h : exec i s = .next t) (hv' : ValidFor (bpp i'.op) i'.width i'.height i'.len)
    (hcap' : i'.width * i'.height ≤ s'.capPixels) (h' : exec i' s' = .next t') :
    t.bp = s.bp ∧ t.hb = s.hb ∧ t.vb = s.vb ∧
    ∀ j : Nat, (j : Int) < i.width * i.height → (j : Int) < i'.width * i'.height →
      (∀ k, k < bpp i.op → s.src.read (bpp i.op * j + k) = s'.src.read (bpp i.op * j + k)) →
      ∀ k, k < 4 → t.dst.read (4 * j + k) = t'.dst.read (4 * j + k) := by
  obtain ⟨hbp, hhb, hvb⟩ := exec_keeps_planes h (.inl hop)
  obtain ⟨u, hu, rfl⟩ := exec_next_of_valid hv hcap h
  obtain ⟨u', hu', rfl⟩ := exec_next_of_valid hv' hcap' h'
  refine ⟨hbp, hhb, hvb, fun j hj hj' hsrc k hk => ?_⟩
  obtain ⟨p, hp, hp'⟩ :=
    bodyOf_pixel_congr hop hu (hsame ▸ hu') (pixel_lt_of_valid hv hj) (pixel_lt_of_valid hv' hj') hsrc
  have hdiv : (4 * j + k) / 4 = j := by omega
  exact read_eq_of_pixelAt (by rw [hdiv]; exact hp') (by rw [hdiv]; exact hp)

/-! ### The obligations -/

/-- Settles O29: output pixel `i` is `grayPixel` of input pixel `i`, whose luma is R78's quotient. -/
theorem grayWritesTheLumaOfEveryPixel : Obligations.GrayWritesTheLumaOfEveryPixel := by
  intro s w h n hv hcap hmax hsrc
  obtain ⟨t, ht⟩ := exec_completes (i := .gray w h n) hsrc
  obtain ⟨px, hd, hdst⟩ := execGray_dst hv hcap ht
  refine ⟨t, ht, exec_published (i := .gray w h n) hv hcap hmax ht, fun i a r g b hi hp =>
    ⟨luma8 r g b, luma8_toNat r g b, ?_⟩⟩
  rw [hdst, holds_iff_pixelAt]
  exact encodePacked4_map_decoded s.dst grayPixel hd (pixel_lt_of_valid hv hi) (holds_iff_pixelAt.1 hp)

/-- Settles O30: output pixel `i` is `negPixel` of input pixel `i`. -/
theorem negSubtractsEveryColourFrom255 : Obligations.NegSubtractsEveryColourFrom255 := by
  intro s w h n hv hcap hmax hsrc
  obtain ⟨t, ht⟩ := exec_completes (i := .neg w h n) hsrc
  obtain ⟨px, hd, hdst⟩ := execNeg_dst hv hcap ht
  refine ⟨t, ht, exec_published (i := .neg w h n) hv hcap hmax ht, fun i a r g b hi hp =>
    ⟨negChannel r, negChannel g, negChannel b, negChannel_toNat r, negChannel_toNat g, negChannel_toNat b, ?_⟩⟩
  rw [hdst, holds_iff_pixelAt]
  exact encodePacked4_map_decoded s.dst negPixel hd (pixel_lt_of_valid hv hi) (holds_iff_pixelAt.1 hp)

/-- Settles O31: output pixel `i` is `lumagrayPixel` of input byte `i`. -/
theorem lumagrayWritesOpaqueGrey : Obligations.LumagrayWritesOpaqueGrey := by
  intro s w h n hv hcap hmax hsrc
  obtain ⟨t, ht⟩ := exec_completes (i := .lumagray w h n) hsrc
  obtain ⟨ys, hd, hdst⟩ := execLumagray_dst hv hcap ht
  refine ⟨t, ht, exec_published (i := .lumagray w h n) hv hcap hmax ht, fun i y hi hy => ?_⟩
  rw [hdst, holds_iff_pixelAt]
  exact encodePacked4_map_luma s.dst lumagrayPixel hd (pixel_lt_of_valid hv hi) hy

/-- Settles O35: the planes are kept, and an output pixel is a function of its input pixel, in each of the three filters. -/
theorem pointFiltersUseNoNeighbour : Obligations.PointFiltersUseNoNeighbour := by
  rintro f (rfl | rfl | rfl) s s' t t' w h w' h' n n' hv hcap ht hv' hcap' ht'
  · exact exec_pixel_congr (i := .gray w h n) (i' := .gray w' h' n') (by simp [Instr.op]) rfl hv hcap ht hv' hcap' ht'
  · exact exec_pixel_congr (i := .neg w h n) (i' := .neg w' h' n') (by simp [Instr.op]) rfl hv hcap ht hv' hcap' ht'
  · exact exec_pixel_congr (i := .lumagray w h n) (i' := .lumagray w' h' n') (by simp [Instr.op]) rfl hv hcap ht hv' hcap'
      ht'

end Sys2Proof.Machine
end

section
/-! PROOFS. The box blur's passes (42_box_blur.md): the tap positions, the mean of a row's and a column's taps, constant
planes, and order. -/

namespace Sys2Proof.Machine

/-! ### Taps (R101) -/

theorem clampi_eq_max_min {v lo hi : Int} (h : lo ≤ hi) : clampi v lo hi = max lo (min v hi) := by
  unfold clampi
  split
  · omega
  · split <;> omega

theorem tap_eq_edge {size : Nat} (h : 0 < size) (x : Nat) (k : Int) : tap size x k = edge size x k := by
  rw [tap, edge, clampi_eq_max_min (by omega)]

/-- A tap that falls inside needs no moving. -/
theorem tap_inside {size x c : Nat} {k : Int} (hc : (x : Int) + k = c) (hlt : c < size) : tap size x k = c := by
  rw [tap_eq_edge (by omega), edge, hc]
  omega

/-! ### One sample of a pass (R102, R103, R105) -/

/-- The channels are blurred independently (R100). -/
theorem channel_blurTriple {ch : Triple → Byte} (hch : IsChannel ch) (t0 t1 t2 t3 t4 : Triple) :
    ch (blurTriple t0 t1 t2 t3 t4) = blurChannel (ch t0) (ch t1) (ch t2) (ch t3) (ch t4) := by
  obtain rfl | rfl | rfl := hch
  · rfl
  · rfl
  · rfl

theorem hblur_sample {w h x y : Nat} (p : List Triple) {ch : Triple → Byte} (hch : IsChannel ch) (hx : x < w)
    (hy : y < h) : (ch (planeAt (hblur w h p) (y * w + x))).toNat = rowTapSum ch p w x y / 5 := by
  have hplane : planeAt (hblur w h p) (y * w + x) = hblurAt w p x y := planeAt_hblur p hx hy
  have hw : 0 < w := Nat.zero_lt_of_lt hx
  rw [hplane, hblurAt, channel_blurTriple hch, blurChannel_toNat]
  simp only [rowTapSum, List.map_cons, List.map_nil, List.sum_cons, List.sum_nil, tap_eq_edge hw, pixelIndex]
  omega

theorem vblur_sample {w h x y : Nat} (p : List Triple) {ch : Triple → Byte} (hch : IsChannel ch) (hx : x < w)
    (hy : y < h) : (ch (planeAt (vblur w h p) (y * w + x))).toNat = columnTapSum ch p w h x y / 5 := by
  have hplane : planeAt (vblur w h p) (y * w + x) = vblurAt w h p x y := planeAt_vblur p hx hy
  have hh : 0 < h := Nat.zero_lt_of_lt hy
  rw [hplane, vblurAt, channel_blurTriple hch, blurChannel_toNat]
  simp only [columnTapSum, List.map_cons, List.map_nil, List.sum_cons, List.sum_nil, tap_eq_edge hh, pixelIndex]
  omega

/-- Five bytes sum to at most 1275 (R105). -/
theorem five_bytes_sum_le (c : Int → Byte) : ([-2, -1, 0, 1, 2].map fun k => (c k).toNat).sum ≤ 1275 :=
  (List.sum_le_card_nsmul _ 255 (List.forall_mem_map.2 fun k _ => Nat.le_of_lt_succ (c k).isLt)).trans_eq (by simp)

/-! ### Constant planes (R108) -/

theorem planeAt_replicate {n i : Nat} (v : Triple) (h : i < n) : planeAt (List.replicate n v) i = v := by
  rw [planeAt, List.getD_eq_getElem?_getD, List.getElem?_replicate_of_lt h, Option.getD_some]

theorem hblur_replicate (w h : Nat) (v : Triple) : hblur w h (List.replicate (w * h) v) = List.replicate (w * h) v := by
  refine List.eq_replicate_iff.2 ⟨hblur_length _ _ _, List.forall_mem_map.2 fun i hi => ?_⟩
  obtain ⟨hx, hy, -⟩ := pixelIndex_cover (List.mem_range.1 hi)
  have htap (k : Int) : planeAt (List.replicate (w * h) v) (pixelIndex w (tap w (i % w) k) (i / w)) = v :=
    planeAt_replicate v (pixelIndex_lt (tap_lt (Nat.zero_lt_of_lt hx) k) hy)
  rw [hblurAt, htap, htap, htap, htap, htap, blurTriple_self]

theorem vblur_replicate (w h : Nat) (v : Triple) : vblur w h (List.replicate (w * h) v) = List.replicate (w * h) v := by
  refine List.eq_replicate_iff.2 ⟨vblur_length _ _ _, List.forall_mem_map.2 fun i hi => ?_⟩
  obtain ⟨hx, hy, -⟩ := pixelIndex_cover (List.mem_range.1 hi)
  have htap (k : Int) : planeAt (List.replicate (w * h) v) (pixelIndex w (i % w) (tap h (i / w) k)) = v :=
    planeAt_replicate v (pixelIndex_lt hx (tap_lt (Nat.zero_lt_of_lt hy) k))
  rw [vblurAt, htap, htap, htap, htap, htap, blurTriple_self]

theorem blur2_replicate (w h : Nat) (v : Triple) : blur2 w h (List.replicate (w * h) v) = List.replicate (w * h) v := by
  rw [blur2, hblur_replicate, vblur_replicate]

/-! ### Order (R108) -/

/-- Planes given element by element are ordered when their elements are; beyond their length both read as zeros. -/
theorem planeLe_map_range {n : Nat} {f g : Nat → Triple}
    (h : ∀ i (ch : Triple → Byte), IsChannel ch → (ch (f i)).toNat ≤ (ch (g i)).toNat) :
    PlaneLe ((List.range n).map f) ((List.range n).map g) := by
  intro i ch hch
  by_cases hi : i < n
  · simpa [planeAt, hi] using h i ch hch
  · simp [planeAt, hi]

/-- Raising the taps never lowers a sample. -/
theorem channel_blurTriple_mono {ch : Triple → Byte} (hch : IsChannel ch) {t0 t1 t2 t3 t4 u0 u1 u2 u3 u4 : Triple}
    (h0 : (ch t0).toNat ≤ (ch u0).toNat) (h1 : (ch t1).toNat ≤ (ch u1).toNat) (h2 : (ch t2).toNat ≤ (ch u2).toNat)
    (h3 : (ch t3).toNat ≤ (ch u3).toNat) (h4 : (ch t4).toNat ≤ (ch u4).toNat) :
    (ch (blurTriple t0 t1 t2 t3 t4)).toNat ≤ (ch (blurTriple u0 u1 u2 u3 u4)).toNat := by
  rw [channel_blurTriple hch, channel_blurTriple hch, blurChannel_toNat, blurChannel_toNat]
  gcongr

theorem hblur_mono {w h : Nat} {p q : List Triple} (hpq : PlaneLe p q) : PlaneLe (hblur w h p) (hblur w h q) :=
  planeLe_map_range fun _ ch hch => channel_blurTriple_mono hch (hpq _ ch hch) (hpq _ ch hch) (hpq _ ch hch)
    (hpq _ ch hch) (hpq _ ch hch)

theorem vblur_mono {w h : Nat} {p q : List Triple} (hpq : PlaneLe p q) : PlaneLe (vblur w h p) (vblur w h q) :=
  planeLe_map_range fun _ ch hch => channel_blurTriple_mono hch (hpq _ ch hch) (hpq _ ch hch) (hpq _ ch hch)
    (hpq _ ch hch) (hpq _ ch hch)

/-! ### The obligations -/

/-- Settles O37: a tap is the edge-replicated position, and inside the border it is the position itself. -/
theorem tapsReplicateTheEdge : Obligations.TapsReplicateTheEdge := by
  refine ⟨fun size x k hs => ⟨tap_eq_edge hs x k, tap_lt hs k⟩, fun v lo hi => rfl, fun k _ => tap_one 0 k, by decide,
    by decide, fun size x hsize hlo hhi => ?_⟩
  simp only [List.map_cons, List.map_nil]
  rw [tap_inside (c := x - 2) (by omega) (by omega), tap_inside (c := x - 1) (by omega) (by omega),
    tap_inside (c := x) (by omega) (by omega), tap_inside (c := x + 1) (by omega) (by omega),
    tap_inside (c := x + 2) (by omega) (by omega)]

/-- Settles O38: a sample of either pass, and the bound of its five taps' sum. -/
theorem blurPassesTakeTheTruncatedMeanOfFiveTaps : Obligations.BlurPassesTakeTheTruncatedMeanOfFiveTaps :=
  fun w h p ch hch => ⟨hblur_length w h p, vblur_length w h p, fun x y hx hy =>
    ⟨hblur_sample p hch hx hy, vblur_sample p hch hx hy, five_bytes_sum_le fun k => ch (planeAt p (y * w + edge w x k)),
      five_bytes_sum_le fun k => ch (planeAt p (edge h y k * w + x))⟩⟩

/-- Settles O41: five equal taps give their value, and a sample is monotone in its taps. -/
theorem blurKeepsConstantsAndOrder : Obligations.BlurKeepsConstantsAndOrder := by
  refine ⟨fun w h => ?_, fun w h v => ⟨hblur_replicate w h v, vblur_replicate w h v, blur2_replicate w h v⟩,
    fun w h p q hpq => ⟨hblur_mono hpq, vblur_mono hpq⟩, blur2_one⟩
  rw [greyPlane, List.map_replicate, blur2_replicate]

end Sys2Proof.Machine
end

section
/-! PROOFS. The bloom results (43_bloom.md): the four stages of a BLOOM that completes, images without a bright pixel, and
channels never lowered. -/

namespace Sys2Proof.Machine

/-! ### What a BLOOM that completes leaves (R119) -/

/-- The planes and the result of a valid BLOOM within capacity, each from the stage before it. -/
theorem execBloom_stages {s t : State} {w h : Int} {n : Nat} (hv : ValidFor 4 w h n) (hcap : w * h ≤ s.capPixels)
    (hexec : exec (.bloom w h n) s = .next t) :
    ∃ px, decodePacked4 s.src (w.toNat * h.toNat) = some px ∧ t.bp = px.map brightPixel ∧
      t.hb = hblur w.toNat h.toNat t.bp ∧ t.vb = vblur w.toNat h.toNat t.hb ∧
      t.dst = encodePacked4 s.dst (List.zipWith recombinePixel px t.vb) := by
  obtain ⟨u, hu, rfl⟩ := exec_next_of_valid (i := .bloom w h n) hv hcap hexec
  obtain ⟨px, hd, rfl⟩ := bloomBody_eq_some.1 hu
  exact ⟨px, hd, rfl, rfl, rfl, rfl⟩

/-- An element of BP, with R78's quotient for the luma (R115). -/
theorem brightPixel_eq (a r g b : Byte) :
    brightPixel { a := a, r := r, g := g, b := b } =
      if 180 < (299 * r.toNat + 587 * g.toNat + 114 * b.toNat) / 1000 then { r := r, g := g, b := b }
      else { r := 0, g := 0, b := 0 } := by
  rw [brightPixel, luma8_toNat]
  rfl

/-- Output pixel `i` is input pixel `i` recombined with element `i` of VB (R118). -/
theorem encodePacked4_recombined {m : Memory} {n i : Nat} {px : List Pixel} {p : Pixel} {vb : List Triple} {v : Triple}
    (d : Memory) (hd : decodePacked4 m n = some px) (hi : i < n) (hp : pixelAt m i = some p) (hvb : vb[i]? = some v) :
    pixelAt (encodePacked4 d (List.zipWith recombinePixel px vb)) i = some (recombinePixel p v) := by
  obtain ⟨-, hpixel⟩ := decodePacked4_eq_some.1 hd
  have hget : px[i]? = some p := (hpixel i hi).symm.trans hp
  have hzip : (List.zipWith recombinePixel px vb)[i]? = some (recombinePixel p v) := by
    rw [List.getElem?_zipWith, hget, hvb]
  exact encodePacked4_pixel d hzip

/-! ### Images without a bright pixel (R121) -/

/-- Recombination with zeros keeps every pixel. -/
theorem zipWith_recombine_zero (px : List Pixel) :
    List.zipWith recombinePixel px (List.replicate px.length { r := 0, g := 0, b := 0 }) = px := by
  induction px with
  | nil => rfl
  | cons p px ih =>
    rw [List.length_cons, List.replicate_succ, List.zipWith_cons_cons, ih]
    simp only [recombinePixel, clamp8_add_zero]

/-- BP of an image without a bright pixel is all zeros. -/
theorem map_brightPixel_of_dark {m : Memory} {n : Nat} {px : List Pixel} (hd : decodePacked4 m n = some px)
    (hdark : ∀ i < n, ∀ p, pixelAt m i = some p → (luma8 p.r p.g p.b).toNat ≤ 180) :
    px.map brightPixel = List.replicate n { r := 0, g := 0, b := 0 } := by
  obtain ⟨hlen, hpixel⟩ := decodePacked4_eq_some.1 hd
  rw [← hlen]
  refine List.map_eq_replicate_iff.2 fun p hp => ?_
  obtain ⟨i, hi, hget⟩ := List.mem_iff_getElem.1 hp
  have hpi : pixelAt m i = some p := by rw [hpixel i (hlen ▸ hi), List.getElem?_eq_getElem hi, hget]
  exact brightPixel_of_not_bright (hdark i (hlen ▸ hi) p hpi)

/-- BLOOM of an image without a bright pixel completes with the image in DST. -/
theorem execBloom_of_dark {s : State} {w h : Int} {n : Nat} (hv : ValidFor 4 w h n) (hcap : w * h ≤ s.capPixels)
    (hsrc : s.src.writtenTo n)
    (hdark : ∀ i < w.toNat * h.toNat, ∀ p, pixelAt s.src i = some p → (luma8 p.r p.g p.b).toNat ≤ 180) :
    ∃ t, exec (.bloom w h n) s = .next t ∧ ∀ k, k < n → t.dst.read k = s.src.read k := by
  obtain ⟨t, ht⟩ := exec_completes (i := .bloom w h n) hsrc
  obtain ⟨px, hd, hbp, hhb, hvb, hdst⟩ := execBloom_stages hv hcap ht
  have hzero : t.vb = List.replicate px.length { r := 0, g := 0, b := 0 } := by
    rw [hvb, hhb, hbp, map_brightPixel_of_dark hd hdark, hblur_replicate, vblur_replicate, (decodePacked4_eq_some.1 hd).1]
  refine ⟨t, ht, fun k hk => ?_⟩
  rw [hdst, hzero, zipWith_recombine_zero]
  exact encodePacked4_read_decoded hd s.dst (len_of_validFor hv ▸ hk)

/-! ### Channels are never lowered (R123) -/

/-- A saturating sum is at least its first term. -/
theorem le_clamp8_add (c v : Byte) : c ≤ clamp8 ((c.toNat : Int) + v.toNat) := by
  have hc := c.isLt
  rw [BitVec.le_def, clamp8_add]
  omega

/-- A 1×1 image that each BLOOM raises: its blue channel doubles as long as it stays below the clamp (R122). -/
theorem execBloom_doubles_blue {s : State} {c : Byte} (hcap : 1 ≤ s.capPixels) (hc : c.toNat + c.toNat ≤ 255)
    (hp : pixelAt s.src 0 = some { a := 255, r := 255, g := 255, b := c }) :
    ∃ t, exec (.bloom 1 1 4) s = .next t ∧ pixelAt t.dst 0 = some { a := 255, r := 255, g := 255, b := c + c } := by
  obtain ⟨t, ht, hout⟩ := execBloom_one hcap hp
  have hbright : 180 < (luma8 255 255 c).toNat := by
    have hw : (255 : Byte).toNat = 255 := rfl
    rw [luma8_toNat, hw]
    omega
  have hmax : clamp8 (2 * (255 : Byte).toNat) = 255 := by decide
  have hsum : clamp8 (2 * c.toNat) = c + c := by
    apply BitVec.eq_of_toNat_eq
    rw [two_mul, clamp8_add, BitVec.toNat_add]
    omega
  refine ⟨t, ht, ?_⟩
  rw [hout, recombinePixel_brightPixel_of_bright (p := ⟨255, 255, 255, c⟩) hbright, hmax, hsum]

/-- A block of one pixel that holds (255, 255, 255, 1): bright, with a blue channel that can double twice. -/
def faintBlueBlock : State :=
  { State.reset with capPixels := 1, src := [(0, 1), (1, 255), (2, 255), (3, 255)] }

/-! ### The obligations -/

/-- Settles O39: the planes of a completed BLOOM are the two passes' outputs; the 2×2 examples are evaluated. -/
theorem blurIsHorizontalThenVertical : Obligations.BlurIsHorizontalThenVertical := by
  refine ⟨fun _ _ _ => rfl, fun s t w h n hv hcap ht => ?_, by decide, by decide, by decide, by decide⟩
  obtain ⟨px, -, -, hhb, hvb, -⟩ := execBloom_stages hv hcap ht
  exact ⟨hhb, hvb⟩

/-- Settles O43: each plane is its stage's output, and DST the recombination of SRC with VB. -/
theorem bloomRunsItsFourStages : Obligations.BloomRunsItsFourStages := by
  intro s w h n hv hcap hmax hsrc
  obtain ⟨t, ht⟩ := exec_completes (i := .bloom w h n) hsrc
  obtain ⟨px, hd, hbp, hhb, hvb, hdst⟩ := execBloom_stages hv hcap ht
  obtain ⟨hlen, hpixel⟩ := decodePacked4_eq_some.1 hd
  have ⟨hw, hh, _⟩ := hv
  have hcount : ((w.toNat * h.toNat : Nat) : Int) = w * h := pixels_of_valid hw hh
  refine ⟨t, ht, exec_published (i := .bloom w h n) hv hcap hmax ht, ?_, ?_, ?_, fun i a r g b hi hp => ?_,
    fun x y ch hch hx hy => ?_, fun i a r g b v hi hp hvi => ?_⟩
  · rw [hbp, List.length_map, hlen, hcount]
  · rw [hhb, hblur_length, hcount]
  · rw [hvb, vblur_length, hcount]
  · rw [hbp, List.getElem?_map, ← hpixel i (pixel_lt_of_valid hv hi), holds_iff_pixelAt.1 hp, Option.map_some,
      brightPixel_eq]
  · have hx : x < w.toNat := by omega
    have hy : y < h.toNat := by omega
    rw [hvb, vblur_sample t.hb hch hx hy, hhb, hblur_sample t.bp hch hx hy]
    exact ⟨rfl, rfl⟩
  · refine ⟨_, _, _, clamp8_add r v.r, clamp8_add g v.g, clamp8_add b v.b, ?_⟩
    rw [hdst, holds_iff_pixelAt]
    exact encodePacked4_recombined s.dst hd (pixel_lt_of_valid hv hi) (holds_iff_pixelAt.1 hp) hvi

/-- Settles O45: without a bright pixel every plane is zero and recombination keeps the image; a black image has none. -/
theorem bloomKeepsImagesWithoutBrightPixels : Obligations.BloomKeepsImagesWithoutBrightPixels := by
  refine ⟨fun s w h n hv hcap hblack => ?_, fun s w h n hv hcap hsrc hdark => ?_⟩
  · have hsrc : s.src.writtenTo n := fun k hk => by rw [hblack k hk]; rfl
    obtain ⟨t, ht, hdst⟩ := execBloom_of_dark hv hcap hsrc fun i hi p hp => by
      obtain ⟨hb, hg, hr, -⟩ := pixelAt_eq_some.1 hp
      have hn := len_of_validFor hv
      rw [hblack _ (by omega), Option.some_inj] at hb hg hr
      rw [← hb, ← hg, ← hr]
      decide
    exact ⟨t, ht, fun k hk => (hdst k hk).trans (hblack k hk)⟩
  · refine execBloom_of_dark hv hcap hsrc fun i hi p hp => hdark i p.a p.r p.g p.b ?_ (holds_iff_pixelAt.2 hp)
    obtain ⟨hw, hh, -⟩ := hv
    rw [← pixels_of_valid hw hh]
    exact_mod_cast hi

/-- Settles O47: recombination keeps alpha and adds to each channel; and the bright pixel with blue 1 has blue 2 after one
BLOOM and 4 after two. -/
theorem bloomKeepsAlphaAndNeverDarkens : Obligations.BloomKeepsAlphaAndNeverDarkens := by
  refine ⟨fun s t w h n hv hcap ht i hi => ?_, ?_⟩
  · obtain ⟨px, hd, -, -, hvb, hdst⟩ := execBloom_stages hv hcap ht
    have hi := pixel_lt_of_valid hv hi
    obtain ⟨p, hp, -⟩ := decodePacked4_pixel hd hi
    have hv : t.vb[i]? = some (t.vb[i]'(by rw [hvb, vblur_length]; exact hi)) := List.getElem?_eq_getElem _
    have hout := encodePacked4_recombined s.dst hd hi hp hv
    rw [← hdst] at hout
    exact ⟨p.a, p.r, p.g, p.b, _, _, _, holds_iff_pixelAt.2 hp, holds_iff_pixelAt.2 hout, le_clamp8_add _ _,
      le_clamp8_add _ _, le_clamp8_add _ _⟩
  · obtain ⟨t, ht, hout⟩ := execBloom_doubles_blue (s := faintBlueBlock) (c := 1) (by decide) (by decide) rfl
    obtain ⟨-, -, -, -, -, -, hcap, -⟩ := exec_agreesOutsideResult ht
    obtain ⟨u, hu, hout'⟩ := execBloom_doubles_blue (s := { t with src := t.dst }) (c := 1 + 1) hcap.ge (by decide) hout
    obtain ⟨hblue, -⟩ := pixelAt_eq_some.1 hout
    obtain ⟨hblue', -⟩ := pixelAt_eq_some.1 hout'
    exact ⟨faintBlueBlock, t, u, 1, ht, hu, rfl, hblue, hblue', by decide⟩

end Sys2Proof.Machine
end

section
/-! PROOFS. The machine family (10_state.md section 3, 20_memory.md section 5, 70_reset_and_hazards.md section 4): who
moves in a step, the walk of the phases against the atomic command, BUSY's end, and the list of blocks. -/

namespace Sys2Proof.Machine

/-! ### Who moves (R41, R158) -/

/-- The engine of a busy block moves before a waiting host. -/
theorem engineFirst_wait {s : State} (hb : s.busy = true) : engineFirst s .wait = true := by simp [engineFirst, hb]

/-- Before any other action of the host, the free choice decides. -/
theorem engineFirst_of_ne_wait {s : State} {a : HostAction} (hb : s.busy = true) (ha : a ≠ .wait) :
    engineFirst s a = Config.engineTurn s.instanceNo s.draws := by
  simp [engineFirst, hb, ha]

/-- The state in which the host's action runs: the choice used up, the action off the queue. -/
theorem chosen_popHost {s : State} {a : HostAction} {rest : List HostAction} (hq : s.hostQueue = a :: rest) :
    s.chosen.popHost = { s with draws := s.draws + 1, hostQueue := rest } := by
  rw [State.popHost, State.chosen, hq, List.tail_cons]

/-- In CHECK the engine runs the latched command. -/
theorem engineStep_chosen_check {s : State} (hp : s.phase = .check) :
    engineStep s.chosen = exec s.fetch { s with draws := s.draws + 1 } := engineStep_check (s := s.chosen) hp

/-- The state `withFetchWord` gives stands in CHECK with the word latched and nothing pending. -/
theorem fetch_withFetchWord (s : State) (nbits w : Nat) :
    (s.withFetchWord nbits w).fetch = decodeWord (BitVec.ofNat 98 (w % 2 ^ nbits)) := by
  rw [State.fetch_eq]
  rfl

/-! ### The walk of the phases (R13, R44) -/

theorem ticks_one (s : State) : ticks 1 s = tick s := by
  simp only [ticks]
  cases tick s <;> rfl

/-- A phase that answers a next state, and the walk from there. -/
theorem ticks_succ_of_next {k : Nat} {s t : State} (h : tick s = .next t) : ticks (k + 1) s = ticks k t := by
  rw [ticks, h]

/-- A phase that faults ends the walk. -/
theorem ticks_succ_of_fault {k : Nat} {s : State} {f : Fault} (h : tick s = .fault f) : ticks (k + 1) s = .fault f := by
  rw [ticks, h]

/-- CHECK of a command whose checks fail takes the exception entry. -/
theorem checkPhase_raises {s : State} {e : Exc}
    (hc : checkCommand s.fetch.len s.fetch.width s.fetch.height (bpp s.fetch.op) s.capPixels = some e) :
    checkPhase s = s.raise e := by
  obtain ⟨hop, -⟩ := s.fetch_operands
  rw [hop] at hc
  rw [checkPhase, hc]

/-- CHECK of a command that passes them goes on to POINT, or to BRIGHT for BLOOM. -/
theorem checkPhase_enters {s : State}
    (hc : checkCommand s.fetch.len s.fetch.width s.fetch.height (bpp s.fetch.op) s.capPixels = none) :
    checkPhase s = s.enter (if s.fetch.op = 3 then .bright else .point) := by
  obtain ⟨hop, -⟩ := s.fetch_operands
  rw [hop] at hc ⊢
  rw [checkPhase, hc]

/-- A command that passed its checks is its body, published. -/
theorem exec_of_accepted {i : Instr} {s : State}
    (hc : checkCommand i.len i.width i.height (bpp i.op) s.capPixels = none) :
    exec i s = publishOrFault (i.width.toNat * i.height.toNat) (bodyOf i.op i.width.toNat i.height.toNat s) := by
  rw [exec_eq_runCommand, runCommand, hc]

/-- POINT is the latched point filter's body, published. -/
theorem pointPhase_eq {s : State} (hop : s.fetch.op ≠ 3) :
    pointPhase s = publishOrFault (s.fetch.width.toNat * s.fetch.height.toNat)
      (bodyOf s.fetch.op s.fetch.width.toNat s.fetch.height.toNat s) := by
  unfold pointPhase
  cases hf : s.fetch with
  | gray w h n => rfl
  | neg w h n => rfl
  | lumagray w h n => rfl
  | bloom w h n => rw [hf] at hop; exact absurd rfl hop

/-- The phase a point filter's body runs in leaves no trace in what is published. -/
theorem publish_body_enter {op : BitVec 2} (hop : op ≠ 3) (w h n : Nat) (s : State) (p : Phase) :
    publishOrFault n (bodyOf op w h (s.enter p)) = publishOrFault n (bodyOf op w h s) := by
  unfold bodyOf
  split
  · rw [grayBody, grayBody, State.enter_src]
    cases decodePacked4 s.src (w * h) <;> rfl
  · rw [negBody, negBody, State.enter_src]
    cases decodePacked4 s.src (w * h) <;> rfl
  · rw [lumagrayBody, lumagrayBody, State.enter_src]
    cases decodeLumaPlane s.src (w * h) <;> rfl
  · exact absurd rfl hop

/-- A point filter takes two phases: CHECK and POINT. -/
theorem ticks_pointFilter {s : State} (hp : s.phase = .check) (hop : s.fetch.op ≠ 3)
    (hc : checkCommand s.fetch.len s.fetch.width s.fetch.height (bpp s.fetch.op) s.capPixels = none) :
    ticks 2 s = exec s.fetch s := by
  have hcheck : tick s = .next (s.enter .point) := by rw [tick_check hp, checkPhase_enters hc, if_neg hop]
  rw [ticks_succ_of_next hcheck, ticks_one, tick_point rfl, pointPhase_eq (s := s.enter .point) hop, exec_of_accepted hc]
  exact publish_body_enter hop _ _ _ s .point

/-- The phase the last stage runs in leaves no trace either. -/
theorem publish_recombine_enter (w h n : Nat) (s : State) (p : Phase) :
    publishOrFault n (recombineStage w h (s.enter p)) = publishOrFault n (recombineStage w h s) := by
  rw [recombineStage, recombineStage, State.enter_src]
  cases decodePacked4 s.src (w * h) <;> rfl

/-- The three phases of a BLOOM after BRIGHT. -/
theorem ticks_enter_hblur (s : State) :
    ticks 3 (s.enter .hblur) = publishOrFault (s.cmd.columns * s.cmd.rows) (recombineStage s.cmd.columns s.cmd.rows
      (vblurStage s.cmd.columns s.cmd.rows (hblurStage s.cmd.columns s.cmd.rows s))) := by
  have hhblur : tick (s.enter .hblur) = .next ((hblurStage s.cmd.columns s.cmd.rows s).enter .vblur) := tick_hblur rfl
  have hvblur : tick ((hblurStage s.cmd.columns s.cmd.rows s).enter .vblur) =
      .next ((vblurStage s.cmd.columns s.cmd.rows (hblurStage s.cmd.columns s.cmd.rows s)).enter .recomb) := tick_vblur rfl
  have hrecomb : tick ((vblurStage s.cmd.columns s.cmd.rows (hblurStage s.cmd.columns s.cmd.rows s)).enter .recomb) =
      publishOrFault (s.cmd.columns * s.cmd.rows) (recombineStage s.cmd.columns s.cmd.rows
        ((vblurStage s.cmd.columns s.cmd.rows (hblurStage s.cmd.columns s.cmd.rows s)).enter .recomb)) := tick_recomb rfl
  rw [ticks_succ_of_next hhblur, ticks_succ_of_next hvblur, ticks_one, hrecomb, publish_recombine_enter]

/-- BLOOM takes five: CHECK and its four stages. -/
theorem ticks_bloom {s : State} (hp : s.phase = .check) (hop : s.fetch.op = 3)
    (hc : checkCommand s.fetch.len s.fetch.width s.fetch.height (bpp s.fetch.op) s.capPixels = none) :
    ticks 5 s = exec s.fetch s := by
  have hcheck : tick s = .next (s.enter .bright) := by rw [tick_check hp, checkPhase_enters hc, if_pos hop]
  obtain ⟨-, hwidth, hheight, -⟩ := s.fetch_operands
  have hexec : exec s.fetch s = publishOrFault (s.cmd.columns * s.cmd.rows) (bloomBody s.cmd.columns s.cmd.rows s) := by
    rw [exec_of_accepted hc, hop, hwidth, hheight]; rfl
  rw [ticks_succ_of_next hcheck, hexec, bloomBody, brightStage]
  cases hd : decodePacked4 s.src (s.cmd.columns * s.cmd.rows) with
  | none =>
    have hbright : tick (s.enter .bright) = .fault .srcUnwritten := by
      rw [tick_bright rfl, brightStage, State.enter_src, State.enter_cmd, hd]; rfl
    rw [ticks_succ_of_fault hbright]
    rfl
  | some px =>
    have hbright : tick (s.enter .bright) = .next (State.enter { s with bp := px.map brightPixel } .hblur) := by
      rw [tick_bright rfl, brightStage, State.enter_src, State.enter_cmd, hd]; rfl
    rw [ticks_succ_of_next hbright, ticks_enter_hblur]
    rfl

/-! ### BUSY falls (R158) -/

/-- A register write on a busy block changes nothing: operand writes are dropped and a START is ignored (R154, R156). -/
theorem writeReg_of_busy {s : State} (hb : s.busy = true) (r : HostReg) (v : Word) : s.writeReg r v = s := by
  obtain hw | ⟨-, -, hidle, -⟩ | ⟨hidle, -⟩ := writeReg_cases s r v
  · exact hw
  · cases hb.symm.trans hidle
  · cases hb.symm.trans hidle

/-- On a busy block without a result a defined host action resets the block, or it moves nothing but the draws and the
record of what was read. -/
theorem hostAct_of_busy {a : HostAction} {s : State} (hb : s.busy = true) (hlen : s.outLen = 0)
    (ha : a.defined s.bufBytes) :
    hostAct a s = .next s.afterReset ∨ ∃ d r, hostAct a s = .next { s with draws := d, hostReplies := r } := by
  cases a with
  | regWrite offset size v =>
    obtain ⟨rfl, hreg⟩ := ha
    obtain ⟨r, hr⟩ := Option.isSome_iff_exists.1 hreg
    rw [regAt_eq_some hr, hostAct_regWrite, writeReg_of_busy hb]
    exact .inr ⟨s.draws, s.hostReplies, rfl⟩
  | regRead offset size =>
    obtain ⟨rfl, hreg⟩ := ha
    obtain ⟨r, hr⟩ := Option.isSome_iff_exists.1 hreg
    rw [regAt_eq_some hr, hostAct_regRead]
    exact .inr ⟨s.draws, _, rfl⟩
  | srcWrite index size v =>
    obtain ⟨rfl, hi⟩ := ha
    rw [hostAct_srcWrite hi, writeSrc_of_busy hb]
    exact .inr ⟨s.draws, s.hostReplies, rfl⟩
  | srcRead index size =>
    obtain ⟨rfl, hi⟩ := ha
    obtain ⟨v, d, hv⟩ := readSrc_frame s index
    rw [hostAct_srcRead hi, hv]
    exact .inr ⟨d, _, rfl⟩
  | dstWrite index size v =>
    obtain ⟨rfl, hi⟩ := ha
    exact .inr ⟨s.draws, s.hostReplies, hostAct_dstWrite hi v⟩
  | dstRead index size =>
    obtain ⟨rfl, hi⟩ := ha
    obtain ⟨v, d, hv⟩ := readDst_frame s index
    rw [hostAct_dstRead hi, hv]
    exact .inr ⟨d, _, rfl⟩
  | collect =>
    rw [hostAct, hlen]
    exact .inr ⟨s.draws, s.hostReplies, rfl⟩
  | wait => exact .inr ⟨s.draws, s.hostReplies, rfl⟩
  | reset => exact .inl rfl

/-- A step, and the run from there. -/
theorem run_succ_of_next {k : Nat} {s t : State} (h : step s = .next t) :
    Host.Core.run core (k + 1) s = Host.Core.run core k t := by
  have hstep : core.step s = .next t := h
  simp only [Host.Core.run, hstep]

/-- When the engine moves first, one step ends the command. -/
theorem run_one_of_exec {s : State} {i : Instr} {s' : State} (hstep : step s = exec i s') (hsrc : s'.src.writtenTo i.len) :
    ∃ t, Host.Core.run core 1 s = .next t ∧ State.busy t = false := by
  obtain ⟨t, ht⟩ := exec_completes hsrc
  exact ⟨t, run_succ_of_next (hstep.trans ht), exec_busy ht⟩

/-- The command of a busy block ends after at most the host's pending actions: each of them that goes first is one fewer
pending, and none of them starts the wait anew. -/
theorem busy_falls {q : List HostAction} {s : State} (hq : s.hostQueue = q) (hp : s.phase = .check)
    (hb : s.busy = true) (hlen : s.outLen = 0) (hsrc : s.src.writtenTo s.fetch.len)
    (hdef : ∀ a ∈ q, a.defined s.bufBytes) :
    ∃ k t, k ≤ q.length + 1 ∧ Host.Core.run core k s = .next t ∧ State.busy t = false := by
  induction q generalizing s with
  | nil =>
    obtain ⟨t, ht, hbusy⟩ := run_one_of_exec ((step_of_no_host hq).trans (engineStep_check hp)) hsrc
    exact ⟨1, t, by omega, ht, hbusy⟩
  | cons a rest ih =>
    have hstep := step_of_host hq
    obtain ⟨ha, hrest⟩ := List.forall_mem_cons.1 hdef
    by_cases hfirst : engineFirst s a = true
    · rw [if_pos hfirst, engineStep_chosen_check hp] at hstep
      obtain ⟨t, ht, hbusy⟩ := run_one_of_exec hstep hsrc
      exact ⟨1, t, by omega, ht, hbusy⟩
    · rw [if_neg hfirst, chosen_popHost hq] at hstep
      obtain hreset | ⟨d, r, hread⟩ := hostAct_of_busy (s := { s with draws := s.draws + 1, hostQueue := rest }) hb hlen ha
      · exact ⟨1, _, by omega, run_succ_of_next (hstep.trans hreset), rfl⟩
      · obtain ⟨k, t, hk, ht, hbusy⟩ :=
          ih (s := { s with draws := d, hostQueue := rest, hostReplies := r }) rfl hp hb hlen hsrc hrest
        exact ⟨k + 1, t, Nat.succ_le_succ hk, (run_succ_of_next (hstep.trans hread)).trans ht, hbusy⟩

/-! ### Instances (R48, R141) -/

/-- The `k`-th block makes a step of its own and is put back in its place. -/
theorem stepInstance_eq_some {k : Nat} {is is' : Instances} (h : stepInstance k is = some is') :
    ∃ s t, is[k]? = some s ∧ step s = .next t ∧ is' = is.set k t := by
  unfold stepInstance at h
  split at h
  · cases h
  · next s hs =>
    split at h
    · next t ht => exact ⟨s, t, hs, ht, (Option.some.inj h).symm⟩
    · cases h
    · cases h

/-- The engine writes nothing but what a command may write, in whichever phase it stands. -/
theorem engineStep_agreesOutsideResult {s t : State} (h : engineStep s = .next t) : s.agreesOutsideResult t := by
  by_cases hp : s.phase = .check
  · rw [engineStep_check hp] at h
    exact exec_agreesOutsideResult h
  · rw [engineStep_of_ne_check hp] at h
    obtain ⟨-, rfl⟩ | ⟨hc, -⟩ | ⟨-, -, u, hu, rfl⟩ | ⟨-, px, -, rfl⟩ | ⟨-, rfl⟩ | ⟨-, rfl⟩ | ⟨-, px, -, rfl⟩ := tick_next h
    · exact agreesOutsideResult_update t _ _ _ _ _ _ _ _ _
    · exact absurd hc hp
    · exact publish_body_agreesOutsideResult hu
    · exact agreesOutsideResult_update s _ _ _ _ _ _ _ _ _
    · exact agreesOutsideResult_update s _ _ _ _ _ _ _ _ _
    · exact agreesOutsideResult_update s _ _ _ _ _ _ _ _ _
    · exact agreesOutsideResult_update s _ _ _ _ _ _ _ _ _

/-- No command and no stage writes the number of the block (R141). -/
theorem engineStep_instanceNo {s t : State} (h : engineStep s = .next t) : t.instanceNo = s.instanceNo := by
  obtain ⟨-, -, -, -, -, -, -, hno, -⟩ := engineStep_agreesOutsideResult h
  exact hno

/-- No host access writes it, the reset input neither. -/
theorem hostAct_instanceNo {a : HostAction} {s t : State} (h : hostAct a s = .next t) : t.instanceNo = s.instanceNo := by
  obtain ⟨q, d, r, rfl⟩ | ⟨rfl, -⟩ | ⟨-, o, w, k, l, rfl⟩ | ⟨-, index, v, -, rfl⟩ | ⟨-, rfl⟩ := hostAct_next h
  · rfl
  · rfl
  · rfl
  · rfl
  · rfl

theorem step_instanceNo {s t : State} (h : step s = .next t) : t.instanceNo = s.instanceNo := by
  obtain ⟨-, he⟩ | ⟨-, -, he⟩ | ⟨a, rest, -, ha⟩ := step_cases s
  · exact engineStep_instanceNo (he ▸ h)
  · exact engineStep_instanceNo (s := s.chosen) (he ▸ h)
  · exact hostAct_instanceNo (s := s.chosen.popHost) (ha ▸ h)

/-! ### The obligations -/

/-- Settles O26: nothing runs in HALT, and a block that is not busy takes the host's action. -/
theorem haltedBlockFaultsUnlessTheHostActs : Obligations.HaltedBlockFaultsUnlessTheHostActs := by
  refine ⟨fun s hp hq => ?_, fun s a rest _ hb hq => ?_⟩
  · have hcheck : s.phase ≠ .check := by simp [hp]
    rw [step_of_no_host hq, engineStep_of_ne_check hcheck, tick_halt hp]
  · rw [step_of_host_idle hq hb, chosen_popHost hq]

/-- Settles O50: one phase for a command that its checks end, two for a point filter, five for BLOOM. -/
theorem phaseWalkReachesTheCommandsEnd : Obligations.PhaseWalkReachesTheCommandsEnd := by
  intro s hp
  cases hc : checkCommand s.fetch.len s.fetch.width s.fetch.height (bpp s.fetch.op) s.capPixels with
  | some e =>
    refine ⟨1, by decide, by decide, ?_⟩
    rw [ticks_one, tick_check hp, checkPhase_raises hc, exec_raises hc]
  | none =>
    by_cases hop : s.fetch.op = 3
    · exact ⟨5, by decide, by decide, ticks_bloom hp hop hc⟩
    · exact ⟨2, by decide, by decide, ticks_pointFilter hp hop hc⟩

/-- Settles O51: by induction on the host's pending actions. -/
theorem busyFallsWithinTheHostsActions : Obligations.BusyFallsWithinTheHostsActions := by
  intro s hinv hp hsrc hdef
  have hdone : s.done = false := hinv.done_of_ne_idle (by simp [hp])
  exact busy_falls rfl hp (by rw [hinv.busyPhase, hp]; rfl) (hinv.outLenZero hdone) hsrc hdef

/-- Settles O52: the stepped block is put back in its place, and every other place is untouched. -/
theorem instancesShareNothing : Obligations.InstancesShareNothing := by
  intro k is is' h
  obtain ⟨s, t, hs, ht, rfl⟩ := stepInstance_eq_some h
  obtain ⟨hk, -⟩ := List.getElem?_eq_some_iff.1 hs
  exact ⟨List.length_set, fun j hj => List.getElem?_set_ne hj.symm, s, t, hs, List.getElem?_set_self hk, ht⟩

/-- Settles O53: the numbers given at reset, that no step writes them, and where a draw and a choice read them. -/
theorem instancesDrawFromSequencesOfTheirOwn : Obligations.InstancesDrawFromSequencesOfTheirOwn := by
  refine ⟨fun k hk => ⟨Instances.resetAt k, ?_, rfl, rfl⟩, ?_, fun s t h => step_instanceNo h, fun s => rfl,
    fun s a hb ha => engineFirst_of_ne_wait hb ha⟩
  · rw [Instances.reset, List.getElem?_map, List.getElem?_range hk, Option.map_some]
  · rw [Instances.reset, List.length_map, List.length_range]

/-- Settles O54: the arbiter's branches, with the engine's step in CHECK the command the latched word decodes to. -/
theorem stepRunsTheDecodedCommand : Obligations.StepRunsTheDecodedCommand := by
  refine ⟨fun s hp hq => ?_, fun s rest hp hb hq => ?_, fun s a rest hp hb ha hq => ?_, fun s a rest hb hq => ?_,
    fun s hp hq => step_of_idle hp hq, fun s nbits w => ?_⟩
  · rw [step_of_no_host hq, engineStep_check hp, State.fetch]
  · rw [step_of_host hq, if_pos (engineFirst_wait hb), engineStep_chosen_check hp, State.fetch]
  · rw [step_of_host hq, engineFirst_of_ne_wait hb ha, engineStep_chosen_check hp, chosen_popHost hq, State.fetch]
  · rw [step_of_host_idle hq hb, chosen_popHost hq]
  · rw [step_of_no_host rfl, engineStep_check rfl, fetch_withFetchWord]

end Sys2Proof.Machine
end
